-- ==== Sys2Proof/Word.lean ====
section
/-! DEFINITION. The word types of the machine: bytes of memory, 32-bit general-purpose registers and
addresses, 64-bit SIMD&FP registers. -/

namespace Sys2Proof

/-- One byte of memory (spec rule R40). -/
abbrev Byte := BitVec 8

/-- A general-purpose register, an address, the program counter (rules R20, R24, R40; decision D2). -/
abbrev Word := BitVec 32

/-- A SIMD&FP register under its 64-bit name (rule R22). -/
abbrev DWord := BitVec 64

end Sys2Proof
end

