-- ==== Sys2Proof/Config.lean ====
section
/-! DEFINITION. What the architecture leaves to the implementation: the free choices of the model, as
constants with no body, and the size of the machine (rule R184). -/

namespace Sys2Proof

/-- Number of 64-bit SIMD&FP registers (rule R184, `NUM_D`). -/
abbrev Config.numD : Nat := 32

/-- Number of general-purpose registers an admitted instruction can read, R0 to R14 (rules R20, R184). -/
abbrev Config.numR : Nat := 15

/-- One more than the highest byte address (rule R40). -/
abbrev Config.addressSpace : Nat := 2 ^ 32

/-- Instruction length in bytes, the same for the four encodings (rule R60). -/
abbrev Config.instrBytes : Nat := 4

/-- FREE CHOICE (decision D23, rule R111; notes/assumptions/7.md). A T32 word whose condition fails and
which would stop if its condition passed either does nothing or stops: `true` says that it stops.
Applied to the state's counter `freeIndex`, so each occasion has a choice of its own; it answers where the state's own
list `condFailChoices` does not. -/
opaque Config.condFailStops : Nat → Bool

/-- FREE CHOICE (decision D25, rule R139; notes/assumptions/8.md). Where the decode and the Advanced SIMD
enable check would stop an instruction with different outcomes, either is reported: `true` says that the
enable check's is. Applied to the state's counter `freeIndex`. -/
opaque Config.enableStopFirst : Nat → Bool

/-- FREE VALUE (rule R136, decision D11; notes/assumptions/23.md). What a listed D register holds after a DataAbort is
unspecified: applied to the state's counter `freeIndex` and to the register's number. -/
opaque Config.abortedD : Nat → Nat → BitVec 64

end Sys2Proof
end

