-- ==== Sys2Proof/Syntax.lean ====
section
/-! DEFINITION. The instructions: one constructor per row of spec/opcode_table.json (36 rows), and the
fields of the four encoding diagrams (rules R61 to R64). -/

namespace Sys2Proof

/-- The instruction set being executed (rule R25). -/
inductive ISet where
  | a32
  | t32
deriving DecidableEq, Repr

/-- The `itype` values of the four encodings, which select the register list (rule R72). -/
inductive Shape where
  /-- `itype` 1000 in A1, T1: the list Dd, Dd+1. -/
  | single
  /-- `itype` 1001 in A1, T1: the list Dd, Dd+2. -/
  | double
  /-- `itype` 0011 in A2, T2: the list Dd, Dd+1, Dd+2, Dd+3. -/
  | four
deriving DecidableEq, Repr

/-- The `size` field (rule R69): element size 8, 16 or 32 bits; 11 is RESERVED. -/
inductive SizeField where
  | b8
  | b16
  | b32
  | reserved
deriving DecidableEq, Repr

/-- The `align` field (rule R70): no alignment qualifier, or 64, 128 or 256 bits. -/
inductive AlignField where
  | omitted
  | a64
  | a128
  | a256
deriving DecidableEq, Repr

/-- A SIMD&FP register number, `UInt(D:Vd)` (rule R68). -/
abbrev DReg := Fin 32

/-- The value of a four-bit register field, `Rn` or `Rm` (rule R20). -/
abbrev GField := Fin 16

/-- Every variable field of an encoding diagram, with the instruction set it belongs to (rules R61 to R64).
`d` is `UInt(D:Vd)`, `n` is `UInt(Rn)`, `m` is `UInt(Rm)`. -/
structure Fields where
  iset  : ISet
  shape : Shape
  size  : SizeField
  align : AlignField
  d     : DReg
  n     : GField
  m     : GField
deriving DecidableEq, Repr

/-- One constructor per row of spec/opcode_table.json, in the table's order. The operands of a constructor
are the fields its row leaves variable. -/
inductive Instr where
  /-- A1 word with `align` = 11 (rule R74). -/
  | undefinedA1Align (shape : Shape) (size : SizeField) (d : DReg) (n m : GField)
  /-- A1 word with `size` = 11 (rule R74). -/
  | undefinedA1Size (shape : Shape) (align : AlignField) (d : DReg) (n m : GField)
  /-- A2 word with `size` = 11 (rule R74). -/
  | undefinedA2Size (align : AlignField) (d : DReg) (n m : GField)
  /-- A1 word with base register 15 (rule R75). -/
  | unpredictableA1BasePC (shape : Shape) (size : SizeField) (align : AlignField) (d : DReg) (m : GField)
  /-- A2 word with base register 15 (rule R75). -/
  | unpredictableA2BasePC (size : SizeField) (align : AlignField) (d : DReg) (m : GField)
  /-- A1 single-spaced list from D31 (rule R75). -/
  | unpredictableA1SingleD31 (size : SizeField) (align : AlignField) (n m : GField)
  /-- A1 double-spaced list from D30 or D31 (rule R75). -/
  | unpredictableA1DoubleD30 (size : SizeField) (align : AlignField) (d : DReg) (n m : GField)
  /-- A2 list from D30 or D31 (rule R75). -/
  | unpredictableA2D30 (size : SizeField) (align : AlignField) (d : DReg) (n m : GField)
  /-- A2 list from D29 (rule R75). -/
  | unpredictableA2D29 (size : SizeField) (align : AlignField) (n m : GField)
  /-- VLD2 (A1, Dd and Dd+1), no write-back (rule R103). -/
  | vld2A1SingleOffset (size : SizeField) (align : AlignField) (d : DReg) (n : GField)
  /-- VLD2 (A1, Dd and Dd+1), post-indexed by the bytes loaded (rule R103). -/
  | vld2A1SinglePost (size : SizeField) (align : AlignField) (d : DReg) (n : GField)
  /-- VLD2 (A1, Dd and Dd+1), post-indexed by a register (rule R103). -/
  | vld2A1SingleIndex (size : SizeField) (align : AlignField) (d : DReg) (n m : GField)
  /-- VLD2 (A1, Dd and Dd+2), no write-back (rule R104). -/
  | vld2A1DoubleOffset (size : SizeField) (align : AlignField) (d : DReg) (n : GField)
  /-- VLD2 (A1, Dd and Dd+2), post-indexed by the bytes loaded (rule R104). -/
  | vld2A1DoublePost (size : SizeField) (align : AlignField) (d : DReg) (n : GField)
  /-- VLD2 (A1, Dd and Dd+2), post-indexed by a register (rule R104). -/
  | vld2A1DoubleIndex (size : SizeField) (align : AlignField) (d : DReg) (n m : GField)
  /-- VLD2 (A2, Dd to Dd+3), no write-back (rule R105). -/
  | vld2A2Offset (size : SizeField) (align : AlignField) (d : DReg) (n : GField)
  /-- VLD2 (A2, Dd to Dd+3), post-indexed by the bytes loaded (rule R105). -/
  | vld2A2Post (size : SizeField) (align : AlignField) (d : DReg) (n : GField)
  /-- VLD2 (A2, Dd to Dd+3), post-indexed by a register (rule R105). -/
  | vld2A2Index (size : SizeField) (align : AlignField) (d : DReg) (n m : GField)
  /-- T1 word with `align` = 11 (rule R74). -/
  | undefinedT1Align (shape : Shape) (size : SizeField) (d : DReg) (n m : GField)
  /-- T1 word with `size` = 11 (rule R74). -/
  | undefinedT1Size (shape : Shape) (align : AlignField) (d : DReg) (n m : GField)
  /-- T2 word with `size` = 11 (rule R74). -/
  | undefinedT2Size (align : AlignField) (d : DReg) (n m : GField)
  /-- T1 word with base register 15 (rule R75). -/
  | unpredictableT1BasePC (shape : Shape) (size : SizeField) (align : AlignField) (d : DReg) (m : GField)
  /-- T2 word with base register 15 (rule R75). -/
  | unpredictableT2BasePC (size : SizeField) (align : AlignField) (d : DReg) (m : GField)
  /-- T1 single-spaced list from D31 (rule R75). -/
  | unpredictableT1SingleD31 (size : SizeField) (align : AlignField) (n m : GField)
  /-- T1 double-spaced list from D30 or D31 (rule R75). -/
  | unpredictableT1DoubleD30 (size : SizeField) (align : AlignField) (d : DReg) (n m : GField)
  /-- T2 list from D30 or D31 (rule R75). -/
  | unpredictableT2D30 (size : SizeField) (align : AlignField) (d : DReg) (n m : GField)
  /-- T2 list from D29 (rule R75). -/
  | unpredictableT2D29 (size : SizeField) (align : AlignField) (n m : GField)
  /-- VLD2 (T1, Dd and Dd+1), no write-back (rule R106). -/
  | vld2T1SingleOffset (size : SizeField) (align : AlignField) (d : DReg) (n : GField)
  /-- VLD2 (T1, Dd and Dd+1), post-indexed by the bytes loaded (rule R106). -/
  | vld2T1SinglePost (size : SizeField) (align : AlignField) (d : DReg) (n : GField)
  /-- VLD2 (T1, Dd and Dd+1), post-indexed by a register (rule R106). -/
  | vld2T1SingleIndex (size : SizeField) (align : AlignField) (d : DReg) (n m : GField)
  /-- VLD2 (T1, Dd and Dd+2), no write-back (rule R107). -/
  | vld2T1DoubleOffset (size : SizeField) (align : AlignField) (d : DReg) (n : GField)
  /-- VLD2 (T1, Dd and Dd+2), post-indexed by the bytes loaded (rule R107). -/
  | vld2T1DoublePost (size : SizeField) (align : AlignField) (d : DReg) (n : GField)
  /-- VLD2 (T1, Dd and Dd+2), post-indexed by a register (rule R107). -/
  | vld2T1DoubleIndex (size : SizeField) (align : AlignField) (d : DReg) (n m : GField)
  /-- VLD2 (T2, Dd to Dd+3), no write-back (rule R108). -/
  | vld2T2Offset (size : SizeField) (align : AlignField) (d : DReg) (n : GField)
  /-- VLD2 (T2, Dd to Dd+3), post-indexed by the bytes loaded (rule R108). -/
  | vld2T2Post (size : SizeField) (align : AlignField) (d : DReg) (n : GField)
  /-- VLD2 (T2, Dd to Dd+3), post-indexed by a register (rule R108). -/
  | vld2T2Index (size : SizeField) (align : AlignField) (d : DReg) (n m : GField)
deriving DecidableEq, Repr

end Sys2Proof
end

