-- ==== Sys2Proof/Machine/State.lean ====
section
/-! DEFINITION. The state of the machine as plain data, the reasons a step can stop, and the state after reset.
Which rule names each piece of state is in INVENTORY.md, section State. -/

namespace Sys2Proof.Machine

/-- Why an UNPREDICTABLE word is refused (rule R132). -/
inductive UnpredictableReason where
  /-- The base register is register 15. -/
  | baseIsPC
  /-- The register list runs past D31. -/
  | listPastD31
deriving DecidableEq, Repr

/-- Why the model refuses a state that the spec gives no meaning (rule R189, `Unmodelled`). -/
inductive UnmodelledReason where
  /-- The bytes to load touch memory whose reads may have a side effect (rule R48; decision D13). -/
  | deviceMemory
  /-- The program counter is not a multiple of 4 in A32 or of 2 in T32 (rule R46; decision D18). -/
  | misalignedPC
  /-- The instruction at the program counter runs past address 0xFFFFFFFF (notes/assumptions/11.md). -/
  | fetchWrap
deriving DecidableEq, Repr

/-- The states to which the spec gives no meaning (rule R189, case c). -/
inductive Refusal where
  /-- An instruction with no meaning in this model. Raised by no arm of `exec`. Safe. -/
  | notModelled (mnemonic : String)
  /-- An UNPREDICTABLE word (rules R75, R132; decision D8). Raised by the shared load operation. Safe. -/
  | unpredictable (reason : UnpredictableReason)
  /-- A word that matches none of the current instruction set's patterns (rules R73, R76; decision D22). Raised by
  the fetch, and by an instruction executed in the instruction set it does not belong to. Safe. -/
  | notThisInstruction
  /-- The bytes to load run past address 0xFFFFFFFF (rule R41; decision D2). Raised by the shared load operation.
  Safe. -/
  | addressWrap
  /-- A state the spec leaves outside the model. Raised by the fetch and by the shared load operation. Safe. -/
  | unmodelled (reason : UnmodelledReason)
  /-- The program text does not hold the instruction at the program counter: the run has ended (rule R163;
  decision D14). Raised by the fetch. Safe. -/
  | noInstruction
deriving DecidableEq, Repr

/-- The Security state, one of the things the Advanced SIMD enable check depends on (rule R28). -/
inductive SecurityState where
  | secure
  | nonSecure
deriving DecidableEq, Repr

/-- The outcomes of the Advanced SIMD enable check (rule R134). -/
inductive SimdAccess where
  | enabled
  | undefined
  | hypTrap
deriving DecidableEq, Repr

/-- Everything the Advanced SIMD enable check depends on (rule R28). -/
structure SimdContext where
  cpacr : Word
  nsacr : Word
  hcptr : Word
  security : SecurityState
  mode : BitVec 5
deriving DecidableEq, Repr

/-- A range of addresses whose reads may have a side effect (rule R48). -/
structure Region where
  base : Nat
  size : Nat
deriving DecidableEq, Repr

/-- Byte memory as a partial map: the bytes it holds, addresses strictly rising. An address that is not listed
holds no byte (rule R56; notes/assumptions/3.md). -/
abbrev Memory := List Host.Cell

/-- The state of the machine. -/
structure State where
  /-- The instruction set being executed (rule R25). -/
  iset : ISet
  /-- The address of the instruction being executed (rule R24). -/
  pc : Word
  /-- R0 to R14 of the current mode (rule R20). -/
  gpr : Vector Word Config.numR
  /-- D0 to D31 (rule R22). -/
  dreg : Vector DWord Config.numD
  /-- The condition flags N, Z, C, V (rule R26). -/
  flagN : Bool
  flagZ : Bool
  flagC : Bool
  flagV : Bool
  /-- The If-Then state (rules R26, R27). -/
  itstate : BitVec 8
  /-- Data memory (rules R30, R40, R56). -/
  mem : Memory
  /-- The program text (rules R53, R160). -/
  text : Memory
  /-- Addresses that are not side-effect-free memory (rule R48). -/
  devices : List Region
  /-- Data byte order, a parameter of the launch state (rules R42, R160). -/
  bigEndian : Bool
  /-- Strict alignment of element accesses, a parameter of the launch state (rules R45, R160). -/
  strictAlign : Bool
  /-- CPACR, NSACR, HCPTR, the Security state and the PE mode (rule R28). -/
  simdContext : SimdContext
  /-- The function `SimdAccess` of the launch state, as its graph; see `State.simdAccess` (rules R134, R160). -/
  simdRule : List (SimdContext × SimdAccess)
  /-- The MODEL's own, a parameter of the launch state: what is chosen where a T32 word that would stop has a failed
condition, by the number of the free choice; a choice that it does not list is `Config.condFailStops`'s (decision D23;
notes/assumptions/7.md). -/
  condFailChoices : List Bool
  /-- The MODEL's own: how many free choices have been taken (notes/assumptions/7.md). -/
  freeIndex : Nat
deriving DecidableEq, Repr

/-- The exceptions an instruction raises (rule R189, case b). The spec does not describe the entry to any of
them (rules R140, R141), so each ends the run with its cause. After the first three the state is the one before the
instruction (rule R112); after a DataAbort it is the one that the fault carries (rule R136). -/
inductive Fault where
  /-- An UNDEFINED word, or Advanced SIMD not enabled (rules R130, R134). Raised by the shared load operation.
  Safe: nothing can be proved of what follows the exception. -/
  | undefined
  /-- Trapped to Hyp mode by the Advanced SIMD enable check (rules R134, R137). Raised by the shared load
  operation. Safe. -/
  | hypTrap
  /-- The base address is not a multiple of the alignment qualifier, or under strict alignment of the element size
  (rules R44, R45, R135). Raised by the shared load operation with the base or the element address. Safe. -/
  | alignmentFault (address : Word)
  /-- An element read that the memory does not complete (rules R56, R136). Raised by the shared load operation with the
  element's address and the faulted state, whose listed D registers are free values (`State.abortedLoad`). Safe. -/
  | dataAbort (address : Word) (faulted : State)
deriving DecidableEq, Repr

/-- Why an element read is not completed, with the element's address (rules R45, R56). -/
inductive ReadFault where
  | misaligned (address : Word)
  | notHeld (address : Word)
deriving DecidableEq, Repr

/-- The context of the enable check after reset (notes/assumptions/2.md). -/
def SimdContext.reset : SimdContext where
  cpacr := 0
  nsacr := 0
  hcptr := 0x000033FF#32
  security := .secure
  mode := 0b10011#5

/-- The machine right after reset. The spec states no reset value for anything (rules R32, R160): every value here
is the model's (notes/assumptions/1.md and 2.md). -/
def State.reset : State where
  iset := .a32
  pc := 0
  gpr := Vector.replicate Config.numR 0
  dreg := Vector.replicate Config.numD 0
  flagN := false
  flagZ := false
  flagC := false
  flagV := false
  itstate := 0
  mem := []
  text := []
  devices := []
  bigEndian := false
  strictAlign := false
  simdContext := SimdContext.reset
  simdRule := []
  condFailChoices := []
  freeIndex := 0

end Sys2Proof.Machine
end

