-- ==== Sys2Proof/Machine/Ops.lean ====
section
/-! DEFINITION. The named operations over memory and registers, and raising an exception. -/

namespace Sys2Proof.Machine

/-! ### Byte memory -/

/-- The byte at an address, if memory holds one (rule R56). -/
def Memory.readByte : Memory → Nat → Option Byte
  | [], _ => none
  | (k, b) :: rest, a => if k = a then some b else Memory.readByte rest a

/-- Set the byte at an address, keeping the addresses strictly rising. -/
def Memory.writeByte : Memory → Nat → Byte → Memory
  | [], a, x => [(a, x)]
  | (k, b) :: rest, a, x =>
    if a < k then (a, x) :: (k, b) :: rest
    else if a = k then (a, x) :: rest
    else (k, b) :: Memory.writeByte rest a x

/-- Set the bytes at consecutive addresses. -/
def Memory.writeBytes : Memory → Nat → List Byte → Memory
  | m, _, [] => m
  | m, a, x :: xs => Memory.writeBytes (m.writeByte a x) (a + 1) xs

/-- The `n` bytes from an address, if memory holds them all (rule R56). -/
def Memory.readBytes (m : Memory) : Nat → Nat → Option (List Byte)
  | _, 0 => some []
  | a, n + 1 =>
    match m.readByte a with
    | none => none
    | some b => (Memory.readBytes m (a + 1) n).map (b :: ·)

/-- The bytes from an address on, up to `n`, as far as memory holds them. -/
def Memory.readUpTo (m : Memory) : Nat → Nat → List Byte
  | _, 0 => []
  | a, n + 1 =>
    match m.readByte a with
    | none => []
    | some b => b :: Memory.readUpTo m (a + 1) n

/-- Addresses strictly rising, all of them above `low`. -/
def Memory.rising : Nat → Memory → Bool
  | _, [] => true
  | low, (k, _) :: rest => decide (low < k) && Memory.rising k rest

/-- The canonical form: addresses strictly rising and inside the address space (rule R40). As an unlisted address
holds no byte, no entry is redundant. -/
def Memory.wf (m : Memory) : Bool :=
  (match m with
    | [] => true
    | (k, _) :: rest => Memory.rising k rest)
  && m.all fun c => decide (c.1 < Config.addressSpace)

/-! ### Elements -/

/-- The value of bytes, the first the least significant (rule R42, `BigEndian` FALSE). -/
def leValue : List Byte → DWord
  | [] => 0
  | b :: bs => b.zeroExtend 64 ||| (leValue bs <<< 8)

/-- The element whose bytes these are, lowest address first, in the data byte order (rule R42). -/
def elementValue (bigEndian : Bool) (bytes : List Byte) : DWord :=
  if bigEndian then leValue bytes.reverse else leValue bytes

/-- The low `w` bits set. -/
def laneMask (w : Nat) : DWord := (1#64 <<< w) - 1#64

/-- `Elem(v, e, w)`: bits (e+1)*w-1 to e*w of `v`; element 0 is the least significant (rule R187). -/
def elemGet (v : DWord) (e w : Nat) : DWord := (v >>> (e * w)) &&& laneMask w

/-- `Elem(v, e, w) <- x`: those bits replaced, the others left (rule R187). -/
def elemSet (v : DWord) (e w : Nat) (x : DWord) : DWord :=
  (v &&& ~~~(laneMask w <<< (e * w))) ||| ((x &&& laneMask w) <<< (e * w))

/-! ### Registers -/

/-- `R[n]`, for R0 to R14 (rules R20, R187). -/
def State.readR (s : State) (n : Fin Config.numR) : Word := s.gpr[n]

/-- `R[n] <- v`. No register is hardwired (rule R20). -/
def State.writeR (s : State) (n : Fin Config.numR) (v : Word) : State :=
  { s with gpr := s.gpr.set n v }

/-- The SIMD&FP register file. -/
abbrev DRegs := Vector DWord Config.numD

/-- `D[i]` of a register file; no admitted list runs past D31 (rule R95). -/
def DRegs.get (v : DRegs) (i : Nat) : DWord := v[i]?.getD 0

/-- `Elem(D[i], e, w) <- x` on a register file. -/
def DRegs.setElem (v : DRegs) (i e w : Nat) (x : DWord) : DRegs :=
  v.setIfInBounds i (elemSet (v.get i) e w x)

/-- `D[i]`, the 64-bit name of a SIMD&FP register (rule R22). -/
def State.readD (s : State) (i : Nat) : DWord := DRegs.get s.dreg i

/-- `Q[i]`, the 128-bit view: D[2i+1] above D[2i] (rule R23). -/
def State.readQ (s : State) (i : Fin 16) : BitVec 128 := s.readD (2 * i.val + 1) ++ s.readD (2 * i.val)

/-- `S[i]`, the 32-bit view of D0 to D15: the even one is the low half (rule R23). -/
def State.readS (s : State) (i : Fin 32) : BitVec 32 :=
  if i.val % 2 = 0 then (s.readD (i.val / 2)).extractLsb' 0 32 else (s.readD (i.val / 2)).extractLsb' 32 32

/-- The SIMD&FP register file replaced. -/
def State.writeDRegs (s : State) (v : DRegs) : State := { s with dreg := v }

/-- `pc <- pc + 4`, modulo 2^32 (rule R24). -/
def State.advancePC (s : State) : State := { s with pc := s.pc + 4#32 }

/-- One free choice has been taken. -/
def State.takeChoice (s : State) : State := { s with freeIndex := s.freeIndex + 1 }

/-- The free choice of decision D23 on this occasion: whether a word that would stop and whose condition fails does stop. It
is the launch state's where its list goes so far, and otherwise has no value (notes/assumptions/7.md). -/
def State.condFailStops (s : State) : Bool :=
  match s.condFailChoices[s.freeIndex]? with
  | some stops => stops
  | none => Config.condFailStops s.freeIndex

/-! ### Outcomes -/

/-- A step that does not complete: an exception or a refusal (rule R189). -/
inductive Stop where
  | fault (r : Fault)
  | refusal (r : Refusal)
deriving DecidableEq, Repr

/-- `raise <Exception>(info)` (rule R187): an exception is taken. The spec describes no entry: it names no saved
register, mode, mask or vector, and says that the fault is a terminal outcome of the step, with no saved state
(rules R140, R141; decisions D7, D15). So taking an exception is answering its cause, and after a DataAbort the faulted state. The return from one is not in the spec
either (rule R141). -/
def raise (r : Fault) : Host.Outcome State Fault Refusal := .fault r

/-- `refuse <Reason>` (rule R187). -/
def refuse (r : Refusal) : Host.Outcome State Fault Refusal := .refused r

/-- The outcome of a step that stops. -/
def Stop.outcome : Stop → Host.Outcome State Fault Refusal
  | .fault r => raise r
  | .refusal r => refuse r

/-! ### Memory accesses of an instruction -/

/-- `MemRead(a, n)`, zero-extended (rules R42, R45, R56): under strict alignment the address must be a multiple of
the size; a byte that memory does not hold aborts the read.

DESIGN CHOICE (notes/assumptions/22.md): where one element read is both misaligned under strict alignment (rule R45) and not
wholly in memory (rule R56), no rule says which fault it raises (rules R98 and R139 order the reads, not the faults of
one read). The model tests the alignment first, so it raises AlignmentFault. -/
def State.memRead (s : State) (a : Word) (n : Nat) : Except ReadFault DWord :=
  if s.strictAlign ∧ a.toNat % n ≠ 0 then .error (.misaligned a)
  else
    match s.mem.readBytes a.toNat n with
    | some bytes => .ok (elementValue s.bigEndian bytes)
    | none => .error (.notHeld a)

/-- The region has an address among the `n` from `a` on. -/
def Region.touches (r : Region) (a n : Nat) : Bool :=
  decide (r.base < a + n) && decide (a < r.base + r.size) && decide (0 < n) && decide (0 < r.size)

/-- Some of the `n` bytes from `a` on are not side-effect-free memory (rule R48). -/
def State.touchesDevice (s : State) (a n : Nat) : Bool := s.devices.any fun r => r.touches a n

/-! ### The Advanced SIMD enable check -/

/-- `SimdAccess(state)` (rules R28, R134; decision D6): a function of CPACR, NSACR, HCPTR, the Security state and the PE
mode, and of nothing else. Which function is a parameter of the launch state, held as its graph; a context that the
graph does not list is not enabled (notes/assumptions/6.md). -/
def State.simdAccess (s : State) : SimdAccess :=
  match s.simdRule.find? (fun entry => entry.1 == s.simdContext) with
  | some entry => entry.2
  | none => .undefined

/-- `CheckAdvSIMDEnabled()` (rule R134): how it stops the instruction, if it does. -/
def State.simdStop (s : State) : Option Stop :=
  match s.simdAccess with
  | .enabled => none
  | .undefined => some (.fault .undefined)
  | .hypTrap => some (.fault .hypTrap)

end Sys2Proof.Machine
end

