-- ==== Sys2Proof/Machine/Flags.lean ====
section
/-! DEFINITION. The condition check and the If-Then state. No instruction writes a condition flag (rule R27), so
there is no flag computation. -/

namespace Sys2Proof.Machine

/-- The condition table (rule R26): bits [3:1] select the test, bit [0] inverts it, except for 1111. -/
def conditionHolds (cond : BitVec 4) (n z c v : Bool) : Bool :=
  let r :=
    match (cond.extractLsb' 1 3).toNat with
    | 0 => z
    | 1 => c
    | 2 => n
    | 3 => v
    | 4 => c && !z
    | 5 => n == v
    | 6 => n == v && !z
    | _ => true
  if cond.getLsbD 0 && cond != 0b1111#4 then !r else r

/-- `ConditionPassed()` (rule R26; decision D10): always in A32 and outside an IT block; inside one, the condition in
ITSTATE[7:4]. -/
def State.conditionPassed (s : State) : Bool :=
  match s.iset with
  | .a32 => true
  | .t32 =>
    if s.itstate.extractLsb' 0 4 = 0#4 then true
    else conditionHolds (s.itstate.extractLsb' 4 4) s.flagN s.flagZ s.flagC s.flagV

/-- ITSTATE after one instruction of an IT block (rule R27; decision D20). -/
def itAdvance (it : BitVec 8) : BitVec 8 :=
  if it.extractLsb' 0 3 = 0#3 then 0#8 else it.extractLsb' 5 3 ++ (it.extractLsb' 0 5 <<< 1)

/-- `AdvanceITSTATE()` (rule R27): in T32 only. -/
def State.advanceIT (s : State) : State :=
  match s.iset with
  | .a32 => s
  | .t32 => { s with itstate := itAdvance s.itstate }

/-- What ends every execution that has a next state (rules R24, R27, R97). -/
def State.finish (s : State) : State := s.advancePC.advanceIT

end Sys2Proof.Machine
end

