-- ==== Sys2Proof/WellFormed.lean ====
section
/-! DEFINITION. Which instruction terms stand for a word of their row of spec/opcode_table.json: the row's
`constraints`, and, for the UNDEFINED and UNPREDICTABLE rows, that no earlier row matches the same word
(rule R73: the rows are in priority order, the first match decides). -/

namespace Sys2Proof

/-- The list shapes of encodings A1 and T1 (rule R72). -/
def Shape.twoRegs : Shape → Bool
  | .single => true
  | .double => true
  | .four => false

/-- `size` is not 11 (rule R69). -/
def SizeField.defined : SizeField → Bool
  | .reserved => false
  | .b8 => true
  | .b16 => true
  | .b32 => true

/-- The alignment is one that a two-register list may have, `align` not 11 (rule R70). -/
def AlignField.twoRegs : AlignField → Bool
  | .a256 => false
  | .omitted => true
  | .a64 => true
  | .a128 => true

/-- The field names a base register an admitted instruction may have, R0 to R14 (rule R20). -/
def GField.base (n : GField) : Bool := n != 15

/-- The field names an index register, so it selects neither of the other two forms (rule R71). -/
def GField.index (m : GField) : Bool := m != 13 && m != 15

/-- The instruction stands for a word of its row. -/
def Instr.wf : Instr → Bool
  | .undefinedA1Align sh _ _ _ _ => sh.twoRegs
  | .undefinedA1Size sh al _ _ _ => sh.twoRegs && al.twoRegs
  | .undefinedA2Size _ _ _ _ => true
  | .unpredictableA1BasePC sh sz al _ _ => sh.twoRegs && sz.defined && al.twoRegs
  | .unpredictableA2BasePC sz _ _ _ => sz.defined
  | .unpredictableA1SingleD31 sz al n _ => sz.defined && al.twoRegs && n.base
  | .unpredictableA1DoubleD30 sz al d n _ => sz.defined && al.twoRegs && n.base && decide (30 ≤ d.val)
  | .unpredictableA2D30 sz _ d n _ => sz.defined && n.base && decide (30 ≤ d.val)
  | .unpredictableA2D29 sz _ n _ => sz.defined && n.base
  | .vld2A1SingleOffset sz al d n => sz.defined && al.twoRegs && n.base && decide (d.val ≤ 30)
  | .vld2A1SinglePost sz al d n => sz.defined && al.twoRegs && n.base && decide (d.val ≤ 30)
  | .vld2A1SingleIndex sz al d n m => sz.defined && al.twoRegs && n.base && decide (d.val ≤ 30) && m.index
  | .vld2A1DoubleOffset sz al d n => sz.defined && al.twoRegs && n.base && decide (d.val ≤ 29)
  | .vld2A1DoublePost sz al d n => sz.defined && al.twoRegs && n.base && decide (d.val ≤ 29)
  | .vld2A1DoubleIndex sz al d n m => sz.defined && al.twoRegs && n.base && decide (d.val ≤ 29) && m.index
  | .vld2A2Offset sz _ d n => sz.defined && n.base && decide (d.val ≤ 28)
  | .vld2A2Post sz _ d n => sz.defined && n.base && decide (d.val ≤ 28)
  | .vld2A2Index sz _ d n m => sz.defined && n.base && decide (d.val ≤ 28) && m.index
  | .undefinedT1Align sh _ _ _ _ => sh.twoRegs
  | .undefinedT1Size sh al _ _ _ => sh.twoRegs && al.twoRegs
  | .undefinedT2Size _ _ _ _ => true
  | .unpredictableT1BasePC sh sz al _ _ => sh.twoRegs && sz.defined && al.twoRegs
  | .unpredictableT2BasePC sz _ _ _ => sz.defined
  | .unpredictableT1SingleD31 sz al n _ => sz.defined && al.twoRegs && n.base
  | .unpredictableT1DoubleD30 sz al d n _ => sz.defined && al.twoRegs && n.base && decide (30 ≤ d.val)
  | .unpredictableT2D30 sz _ d n _ => sz.defined && n.base && decide (30 ≤ d.val)
  | .unpredictableT2D29 sz _ n _ => sz.defined && n.base
  | .vld2T1SingleOffset sz al d n => sz.defined && al.twoRegs && n.base && decide (d.val ≤ 30)
  | .vld2T1SinglePost sz al d n => sz.defined && al.twoRegs && n.base && decide (d.val ≤ 30)
  | .vld2T1SingleIndex sz al d n m => sz.defined && al.twoRegs && n.base && decide (d.val ≤ 30) && m.index
  | .vld2T1DoubleOffset sz al d n => sz.defined && al.twoRegs && n.base && decide (d.val ≤ 29)
  | .vld2T1DoublePost sz al d n => sz.defined && al.twoRegs && n.base && decide (d.val ≤ 29)
  | .vld2T1DoubleIndex sz al d n m => sz.defined && al.twoRegs && n.base && decide (d.val ≤ 29) && m.index
  | .vld2T2Offset sz _ d n => sz.defined && n.base && decide (d.val ≤ 28)
  | .vld2T2Post sz _ d n => sz.defined && n.base && decide (d.val ≤ 28)
  | .vld2T2Index sz _ d n m => sz.defined && n.base && decide (d.val ≤ 28) && m.index

end Sys2Proof
end

