-- ==== Sys2Proof/Machine/Operands.lean ====
section
/-! DEFINITION. Operand assembly: what the decode pseudocode of the four encodings computes from the fields (rules
R68 to R72, R91 to R95). -/

namespace Sys2Proof.Machine

/-- `ebytes = 1 << UInt(size)`, undefined for 11 (rule R69). -/
def elementBytes : SizeField → Option Nat
  | .b8 => some 1
  | .b16 => some 2
  | .b32 => some 4
  | .reserved => none

/-- `alignment = if align == '00' then 1 else 4 << UInt(align)`, in bytes (rule R70). -/
def alignmentBytes : AlignField → Nat
  | .omitted => 1
  | .a64 => 8
  | .a128 => 16
  | .a256 => 32

/-- `regs`, the number of register pairs (rule R72; conflict C5). -/
def pairCount : Shape → Nat
  | .single => 1
  | .double => 1
  | .four => 2

/-- `inc`, from the first register of a pair to the second (rule R72). -/
def pairSpacing : Shape → Nat
  | .single => 1
  | .double => 2
  | .four => 2

/-- What happens to the base register after the access (rules R71, R99). -/
inductive WriteBack where
  /-- `Rm` = 15: nothing. -/
  | none
  /-- `Rm` = 13: 16*regs is added. -/
  | bytes
  /-- Any other `Rm`: the index register is added. -/
  | index (m : Fin Config.numR)
deriving DecidableEq, Repr

/-- The addressing form that the `Rm` field selects (rule R71). -/
def writeBackOf (m : GField) : WriteBack :=
  if h : m.val < Config.numR then
    if m.val = 13 then .bytes else .index ⟨m.val, h⟩
  else .none

/-- The values that the decode computes (rule R95): the operands of the shared operation. -/
structure LoadOperands where
  regs : Nat
  ebytes : Nat
  alignment : Nat
  d : Nat
  d2 : Nat
  n : Fin Config.numR
  writeBack : WriteBack
deriving DecidableEq, Repr

/-- `elements = 8 DIV ebytes` (rule R69). -/
def LoadOperands.elements (p : LoadOperands) : Nat := 8 / p.ebytes

/-- The number of bytes that the instruction loads, 16*regs (rule R41). -/
def LoadOperands.bytes (p : LoadOperands) : Nat := 16 * p.regs

/-- The decode pseudocode of A1 and T1 (a two-register list) and of A2 and T2 (the four-register list), its tests in
the source's order (rules R91 to R94). -/
def decodeOperands (f : Fields) : Except Stop LoadOperands :=
  if f.shape.twoRegs && f.align == .a256 then .error (.fault .undefined)
  else
    match elementBytes f.size with
    | none => .error (.fault .undefined)
    | some ebytes =>
      if h : f.n.val < Config.numR then
        if f.d.val + pairSpacing f.shape + pairCount f.shape > 32 then
          .error (.refusal (.unpredictable .listPastD31))
        else
          .ok
            { regs := pairCount f.shape
              ebytes := ebytes
              alignment := alignmentBytes f.align
              d := f.d.val
              d2 := f.d.val + pairSpacing f.shape
              n := ⟨f.n.val, h⟩
              writeBack := writeBackOf f.m }
      else .error (.refusal (.unpredictable .baseIsPC))

/-- How the decode stops an instruction, if it does (rules R74, R75). -/
def decodeStop (f : Fields) : Option Stop :=
  match decodeOperands f with
  | .ok _ => none
  | .error stop => some stop

end Sys2Proof.Machine
end

