-- ==== Sys2Proof/Machine/Load.lean ====
section
/-! DEFINITION. The shared operation of the four encodings (rules R97 to R102): the condition check, the checks before
the access, the de-interleaving element loads, the write-back. -/

namespace Sys2Proof.Machine

/-- The inner loop (rule R97) for `k` more structures from element `e`, address `a`: the first element of each goes to
`D[i]`, the second to `D[j]`. Answers the registers and the running address. -/
def loadStructures (s : State) (ebytes i j : Nat) : Nat → Nat → Word → DRegs → Except ReadFault (DRegs × Word)
  | 0, _, a, v => .ok (v, a)
  | k + 1, e, a, v =>
    match s.memRead a ebytes with
    | .error r => .error r
    | .ok x =>
      match s.memRead (a + BitVec.ofNat 32 ebytes) ebytes with
      | .error r => .error r
      | .ok y =>
        loadStructures s ebytes i j k (e + 1) (a + BitVec.ofNat 32 (2 * ebytes))
          (DRegs.setElem (DRegs.setElem v i e (8 * ebytes) x) j e (8 * ebytes) y)

/-- The outer loop (rule R97) for `k` more register pairs from pair `r`. -/
def loadPairs (s : State) (p : LoadOperands) : Nat → Nat → Word → DRegs → Except ReadFault DRegs
  | 0, _, _, v => .ok v
  | k + 1, r, a, v =>
    match loadStructures s p.ebytes (p.d + r) (p.d2 + r) p.elements 0 a v with
    | .error x => .error x
    | .ok (v', a') => loadPairs s p k (r + 1) a' v'

/-- The base register's new value, from the registers at write-back time (rules R71, R97, R99). -/
def writeBackValue (s : State) (p : LoadOperands) : Option Word :=
  match p.writeBack with
  | .none => none
  | .bytes => some (s.readR p.n + BitVec.ofNat 32 (16 * p.regs))
  | .index m => some (s.readR p.n + s.readR m)

/-- The write-back (rules R97, R99). -/
def State.doWriteBack (s : State) (p : LoadOperands) : State :=
  match writeBackValue s p with
  | none => s
  | some v => s.writeR p.n v

/-- The state after the element loads have given the registers `v` (rules R97, R102). -/
def State.completeLoad (s : State) (p : LoadOperands) (v : DRegs) : State :=
  ((s.writeDRegs v).doWriteBack p).finish

/-- `D[k]` is on the register list (rule R72). -/
def LoadOperands.lists (p : LoadOperands) (k : Nat) : Bool :=
  (decide (p.d ≤ k) && decide (k < p.d + p.regs)) || (decide (p.d2 ≤ k) && decide (k < p.d2 + p.regs))

/-- `k` registers from `D[d]` hold unspecified values, each its own free value (notes/assumptions/23.md). -/
def unspecifiedFrom (freeIndex d : Nat) : Nat → DRegs → DRegs
  | 0, v => v
  | k + 1, v => (unspecifiedFrom freeIndex d k v).setIfInBounds (d + k) (Config.abortedD freeIndex (d + k))

/-- The SIMD&FP registers after a DataAbort (rule R136; decision D11): every listed D register is unspecified, the others are
unchanged. -/
def abortedRegs (s : State) (p : LoadOperands) : DRegs :=
  unspecifiedFrom s.freeIndex p.d2 p.regs (unspecifiedFrom s.freeIndex p.d p.regs s.dreg)

/-- The faulted state of a DataAbort (rules R56, R136; conflict C7): the listed D registers are unspecified; the base register, the
program counter and all the rest are unchanged. -/
def State.abortedLoad (s : State) (p : LoadOperands) : State :=
  (s.writeDRegs (abortedRegs s p)).takeChoice

/-- The exception that an element read raises (rules R135, R136). Only the first element can be misaligned under strict
alignment, so that fault changes nothing (rule R112). -/
def readFault (s : State) (p : LoadOperands) : ReadFault → Fault
  | .misaligned a => .alignmentFault a
  | .notHeld a => .dataAbort a (s.abortedLoad p)

/-- The operation from the alignment check on (rule R97), with the model's own stops before the first element read
(rules R41, R48, R98). -/
def loadAccess (p : LoadOperands) (s : State) : Host.Outcome State Fault Refusal :=
  let base := s.readR p.n
  if base.toNat % p.alignment ≠ 0 then raise (.alignmentFault base)
  else if base.toNat + p.bytes > Config.addressSpace then refuse .addressWrap
  else if s.touchesDevice base.toNat p.bytes then refuse (.unmodelled .deviceMemory)
  else
    match loadPairs s p p.regs 0 base s.dreg with
    | .error r => raise (readFault s p r)
    | .ok v => .next (s.completeLoad p v)

/-- How the decode and the enable check stop an instruction before its access, if they do (rules R98, R139). Where both
would, with different outcomes, either is reported (decision D25). -/
def earlyStop (f : Fields) (s : State) : Option Stop :=
  match decodeStop f, s.simdStop with
  | none, none => none
  | some a, none => some a
  | none, some b => some b
  | some a, some b => if a = b then some a else if Config.enableStopFirst s.freeIndex then some b else some a

/-- The operation when the condition has passed (rule R97). -/
def execPassed (f : Fields) (s : State) : Host.Outcome State Fault Refusal :=
  match earlyStop f s with
  | some stop => stop.outcome
  | none =>
    match decodeOperands f with
    | .error stop => stop.outcome
    | .ok p => loadAccess p s

/-- The operation when the condition has failed (rule R111): nothing but the advance. A word that would have stopped
early if its condition had passed may instead stop (decision D23). -/
def execFailed (f : Fields) (s : State) : Host.Outcome State Fault Refusal :=
  match earlyStop f s with
  | none => .next s.finish
  | some stop => if s.condFailStops then stop.outcome else .next s.takeChoice.finish

/-- `Execute(w)` for the word with the given fields (rule R97). The word of one instruction set is not this instruction
in the other (rules R25, R73, R76). -/
def execFields (f : Fields) (s : State) : Host.Outcome State Fault Refusal :=
  if s.iset ≠ f.iset then refuse .notThisInstruction
  else if s.conditionPassed then execPassed f s
  else execFailed f s

end Sys2Proof.Machine
end

