-- ==== Sys2Proof/Machine/Undefined.lean ====
section
/-! DEFINITION. The UNDEFINED rows of the opcode table (rules R74, R130): words of the four patterns with `size` = 11, or with `align` = 11
in A1 and T1. Each runs the shared operation, whose decode raises the exception; in T32, inside an IT block whose
condition fails, the word may instead do nothing (rule R111; decision D23). -/

namespace Sys2Proof.Machine

/-- A1 word with `align` = 11 (rule R74). -/
def execUndefinedA1Align (shape : Shape) (size : SizeField) (d : DReg) (n m : GField) (s : State) :
    Host.Outcome State Fault Refusal :=
  execFields { iset := .a32, shape := shape, size := size, align := .a256, d := d, n := n, m := m } s

/-- A1 word with `size` = 11 (rule R74). -/
def execUndefinedA1Size (shape : Shape) (align : AlignField) (d : DReg) (n m : GField) (s : State) :
    Host.Outcome State Fault Refusal :=
  execFields { iset := .a32, shape := shape, size := .reserved, align := align, d := d, n := n, m := m } s

/-- A2 word with `size` = 11 (rule R74). -/
def execUndefinedA2Size (align : AlignField) (d : DReg) (n m : GField) (s : State) :
    Host.Outcome State Fault Refusal :=
  execFields { iset := .a32, shape := .four, size := .reserved, align := align, d := d, n := n, m := m } s

/-- T1 word with `align` = 11 (rule R74). -/
def execUndefinedT1Align (shape : Shape) (size : SizeField) (d : DReg) (n m : GField) (s : State) :
    Host.Outcome State Fault Refusal :=
  execFields { iset := .t32, shape := shape, size := size, align := .a256, d := d, n := n, m := m } s

/-- T1 word with `size` = 11 (rule R74). -/
def execUndefinedT1Size (shape : Shape) (align : AlignField) (d : DReg) (n m : GField) (s : State) :
    Host.Outcome State Fault Refusal :=
  execFields { iset := .t32, shape := shape, size := .reserved, align := align, d := d, n := n, m := m } s

/-- T2 word with `size` = 11 (rule R74). -/
def execUndefinedT2Size (align : AlignField) (d : DReg) (n m : GField) (s : State) :
    Host.Outcome State Fault Refusal :=
  execFields { iset := .t32, shape := .four, size := .reserved, align := align, d := d, n := n, m := m } s

end Sys2Proof.Machine
end

