-- ==== Sys2Proof/Machine/Unpredictable.lean ====
section
/-! DEFINITION. The UNPREDICTABLE rows of the opcode table (rules R75, R132): words of the four patterns with base register 15 or
with a register list past D31. Each runs the shared operation, whose decode refuses; in T32, inside an IT block whose
condition fails, the word may instead do nothing (rule R111; decision D23). -/

namespace Sys2Proof.Machine

/-- A1 word with base register 15 (rule R75). -/
def execUnpredictableA1BasePC (shape : Shape) (size : SizeField) (align : AlignField) (d : DReg) (m : GField) (s : State) :
    Host.Outcome State Fault Refusal :=
  execFields { iset := .a32, shape := shape, size := size, align := align, d := d, n := 15, m := m } s

/-- A2 word with base register 15 (rule R75). -/
def execUnpredictableA2BasePC (size : SizeField) (align : AlignField) (d : DReg) (m : GField) (s : State) :
    Host.Outcome State Fault Refusal :=
  execFields { iset := .a32, shape := .four, size := size, align := align, d := d, n := 15, m := m } s

/-- A1 single-spaced list from D31 (rule R75). -/
def execUnpredictableA1SingleD31 (size : SizeField) (align : AlignField) (n m : GField) (s : State) :
    Host.Outcome State Fault Refusal :=
  execFields { iset := .a32, shape := .single, size := size, align := align, d := 31, n := n, m := m } s

/-- A1 double-spaced list from D30 or D31 (rule R75). -/
def execUnpredictableA1DoubleD30 (size : SizeField) (align : AlignField) (d : DReg) (n m : GField) (s : State) :
    Host.Outcome State Fault Refusal :=
  execFields { iset := .a32, shape := .double, size := size, align := align, d := d, n := n, m := m } s

/-- A2 list from D30 or D31 (rule R75). -/
def execUnpredictableA2D30 (size : SizeField) (align : AlignField) (d : DReg) (n m : GField) (s : State) :
    Host.Outcome State Fault Refusal :=
  execFields { iset := .a32, shape := .four, size := size, align := align, d := d, n := n, m := m } s

/-- A2 list from D29 (rule R75). -/
def execUnpredictableA2D29 (size : SizeField) (align : AlignField) (n m : GField) (s : State) :
    Host.Outcome State Fault Refusal :=
  execFields { iset := .a32, shape := .four, size := size, align := align, d := 29, n := n, m := m } s

/-- T1 word with base register 15 (rule R75). -/
def execUnpredictableT1BasePC (shape : Shape) (size : SizeField) (align : AlignField) (d : DReg) (m : GField) (s : State) :
    Host.Outcome State Fault Refusal :=
  execFields { iset := .t32, shape := shape, size := size, align := align, d := d, n := 15, m := m } s

/-- T2 word with base register 15 (rule R75). -/
def execUnpredictableT2BasePC (size : SizeField) (align : AlignField) (d : DReg) (m : GField) (s : State) :
    Host.Outcome State Fault Refusal :=
  execFields { iset := .t32, shape := .four, size := size, align := align, d := d, n := 15, m := m } s

/-- T1 single-spaced list from D31 (rule R75). -/
def execUnpredictableT1SingleD31 (size : SizeField) (align : AlignField) (n m : GField) (s : State) :
    Host.Outcome State Fault Refusal :=
  execFields { iset := .t32, shape := .single, size := size, align := align, d := 31, n := n, m := m } s

/-- T1 double-spaced list from D30 or D31 (rule R75). -/
def execUnpredictableT1DoubleD30 (size : SizeField) (align : AlignField) (d : DReg) (n m : GField) (s : State) :
    Host.Outcome State Fault Refusal :=
  execFields { iset := .t32, shape := .double, size := size, align := align, d := d, n := n, m := m } s

/-- T2 list from D30 or D31 (rule R75). -/
def execUnpredictableT2D30 (size : SizeField) (align : AlignField) (d : DReg) (n m : GField) (s : State) :
    Host.Outcome State Fault Refusal :=
  execFields { iset := .t32, shape := .four, size := size, align := align, d := d, n := n, m := m } s

/-- T2 list from D29 (rule R75). -/
def execUnpredictableT2D29 (size : SizeField) (align : AlignField) (n m : GField) (s : State) :
    Host.Outcome State Fault Refusal :=
  execFields { iset := .t32, shape := .four, size := size, align := align, d := 29, n := n, m := m } s

end Sys2Proof.Machine
end

