-- ==== Sys2Proof/Machine/VldA32.lean ====
section
/-! DEFINITION. VLD2 in A32: encodings A1 and A2, each register list in its three addressing forms (rules R103 to R105). -/

namespace Sys2Proof.Machine

/-- VLD2 (A1, Dd and Dd+1), no write-back (rule R103). -/
def execVld2A1SingleOffset (size : SizeField) (align : AlignField) (d : DReg) (n : GField) (s : State) :
    Host.Outcome State Fault Refusal :=
  execFields { iset := .a32, shape := .single, size := size, align := align, d := d, n := n, m := 15 } s

/-- VLD2 (A1, Dd and Dd+1), post-indexed by the bytes loaded (rule R103). -/
def execVld2A1SinglePost (size : SizeField) (align : AlignField) (d : DReg) (n : GField) (s : State) :
    Host.Outcome State Fault Refusal :=
  execFields { iset := .a32, shape := .single, size := size, align := align, d := d, n := n, m := 13 } s

/-- VLD2 (A1, Dd and Dd+1), post-indexed by a register (rule R103). -/
def execVld2A1SingleIndex (size : SizeField) (align : AlignField) (d : DReg) (n m : GField) (s : State) :
    Host.Outcome State Fault Refusal :=
  execFields { iset := .a32, shape := .single, size := size, align := align, d := d, n := n, m := m } s

/-- VLD2 (A1, Dd and Dd+2), no write-back (rule R104). -/
def execVld2A1DoubleOffset (size : SizeField) (align : AlignField) (d : DReg) (n : GField) (s : State) :
    Host.Outcome State Fault Refusal :=
  execFields { iset := .a32, shape := .double, size := size, align := align, d := d, n := n, m := 15 } s

/-- VLD2 (A1, Dd and Dd+2), post-indexed by the bytes loaded (rule R104). -/
def execVld2A1DoublePost (size : SizeField) (align : AlignField) (d : DReg) (n : GField) (s : State) :
    Host.Outcome State Fault Refusal :=
  execFields { iset := .a32, shape := .double, size := size, align := align, d := d, n := n, m := 13 } s

/-- VLD2 (A1, Dd and Dd+2), post-indexed by a register (rule R104). -/
def execVld2A1DoubleIndex (size : SizeField) (align : AlignField) (d : DReg) (n m : GField) (s : State) :
    Host.Outcome State Fault Refusal :=
  execFields { iset := .a32, shape := .double, size := size, align := align, d := d, n := n, m := m } s

/-- VLD2 (A2, Dd to Dd+3), no write-back (rule R105). -/
def execVld2A2Offset (size : SizeField) (align : AlignField) (d : DReg) (n : GField) (s : State) :
    Host.Outcome State Fault Refusal :=
  execFields { iset := .a32, shape := .four, size := size, align := align, d := d, n := n, m := 15 } s

/-- VLD2 (A2, Dd to Dd+3), post-indexed by the bytes loaded (rule R105). -/
def execVld2A2Post (size : SizeField) (align : AlignField) (d : DReg) (n : GField) (s : State) :
    Host.Outcome State Fault Refusal :=
  execFields { iset := .a32, shape := .four, size := size, align := align, d := d, n := n, m := 13 } s

/-- VLD2 (A2, Dd to Dd+3), post-indexed by a register (rule R105). -/
def execVld2A2Index (size : SizeField) (align : AlignField) (d : DReg) (n m : GField) (s : State) :
    Host.Outcome State Fault Refusal :=
  execFields { iset := .a32, shape := .four, size := size, align := align, d := d, n := n, m := m } s

end Sys2Proof.Machine
end

