-- ==== Sys2Proof/Machine/VldT32.lean ====
section
/-! DEFINITION. VLD2 in T32: encodings T1 and T2, each register list in its three addressing forms (rules R106 to R108). -/

namespace Sys2Proof.Machine

/-- VLD2 (T1, Dd and Dd+1), no write-back (rule R106). -/
def execVld2T1SingleOffset (size : SizeField) (align : AlignField) (d : DReg) (n : GField) (s : State) :
    Host.Outcome State Fault Refusal :=
  execFields { iset := .t32, shape := .single, size := size, align := align, d := d, n := n, m := 15 } s

/-- VLD2 (T1, Dd and Dd+1), post-indexed by the bytes loaded (rule R106). -/
def execVld2T1SinglePost (size : SizeField) (align : AlignField) (d : DReg) (n : GField) (s : State) :
    Host.Outcome State Fault Refusal :=
  execFields { iset := .t32, shape := .single, size := size, align := align, d := d, n := n, m := 13 } s

/-- VLD2 (T1, Dd and Dd+1), post-indexed by a register (rule R106). -/
def execVld2T1SingleIndex (size : SizeField) (align : AlignField) (d : DReg) (n m : GField) (s : State) :
    Host.Outcome State Fault Refusal :=
  execFields { iset := .t32, shape := .single, size := size, align := align, d := d, n := n, m := m } s

/-- VLD2 (T1, Dd and Dd+2), no write-back (rule R107). -/
def execVld2T1DoubleOffset (size : SizeField) (align : AlignField) (d : DReg) (n : GField) (s : State) :
    Host.Outcome State Fault Refusal :=
  execFields { iset := .t32, shape := .double, size := size, align := align, d := d, n := n, m := 15 } s

/-- VLD2 (T1, Dd and Dd+2), post-indexed by the bytes loaded (rule R107). -/
def execVld2T1DoublePost (size : SizeField) (align : AlignField) (d : DReg) (n : GField) (s : State) :
    Host.Outcome State Fault Refusal :=
  execFields { iset := .t32, shape := .double, size := size, align := align, d := d, n := n, m := 13 } s

/-- VLD2 (T1, Dd and Dd+2), post-indexed by a register (rule R107). -/
def execVld2T1DoubleIndex (size : SizeField) (align : AlignField) (d : DReg) (n m : GField) (s : State) :
    Host.Outcome State Fault Refusal :=
  execFields { iset := .t32, shape := .double, size := size, align := align, d := d, n := n, m := m } s

/-- VLD2 (T2, Dd to Dd+3), no write-back (rule R108). -/
def execVld2T2Offset (size : SizeField) (align : AlignField) (d : DReg) (n : GField) (s : State) :
    Host.Outcome State Fault Refusal :=
  execFields { iset := .t32, shape := .four, size := size, align := align, d := d, n := n, m := 15 } s

/-- VLD2 (T2, Dd to Dd+3), post-indexed by the bytes loaded (rule R108). -/
def execVld2T2Post (size : SizeField) (align : AlignField) (d : DReg) (n : GField) (s : State) :
    Host.Outcome State Fault Refusal :=
  execFields { iset := .t32, shape := .four, size := size, align := align, d := d, n := n, m := 13 } s

/-- VLD2 (T2, Dd to Dd+3), post-indexed by a register (rule R108). -/
def execVld2T2Index (size : SizeField) (align : AlignField) (d : DReg) (n m : GField) (s : State) :
    Host.Outcome State Fault Refusal :=
  execFields { iset := .t32, shape := .four, size := size, align := align, d := d, n := n, m := m } s

end Sys2Proof.Machine
end

