-- ==== Sys2Proof/Machine/Dispatch.lean ====
section
/-! DEFINITION. The meaning of every instruction: one arm per constructor. -/

namespace Sys2Proof.Machine

def exec (i : Instr) (s : State) : Host.Outcome State Fault Refusal :=
  match i with
  | .undefinedA1Align shape size d n m => Sys2Proof.Machine.execUndefinedA1Align shape size d n m s
  | .undefinedA1Size shape align d n m => Sys2Proof.Machine.execUndefinedA1Size shape align d n m s
  | .undefinedA2Size align d n m => Sys2Proof.Machine.execUndefinedA2Size align d n m s
  | .unpredictableA1BasePC shape size align d m => Sys2Proof.Machine.execUnpredictableA1BasePC shape size align d m s
  | .unpredictableA2BasePC size align d m => Sys2Proof.Machine.execUnpredictableA2BasePC size align d m s
  | .unpredictableA1SingleD31 size align n m => Sys2Proof.Machine.execUnpredictableA1SingleD31 size align n m s
  | .unpredictableA1DoubleD30 size align d n m => Sys2Proof.Machine.execUnpredictableA1DoubleD30 size align d n m s
  | .unpredictableA2D30 size align d n m => Sys2Proof.Machine.execUnpredictableA2D30 size align d n m s
  | .unpredictableA2D29 size align n m => Sys2Proof.Machine.execUnpredictableA2D29 size align n m s
  | .vld2A1SingleOffset size align d n => Sys2Proof.Machine.execVld2A1SingleOffset size align d n s
  | .vld2A1SinglePost size align d n => Sys2Proof.Machine.execVld2A1SinglePost size align d n s
  | .vld2A1SingleIndex size align d n m => Sys2Proof.Machine.execVld2A1SingleIndex size align d n m s
  | .vld2A1DoubleOffset size align d n => Sys2Proof.Machine.execVld2A1DoubleOffset size align d n s
  | .vld2A1DoublePost size align d n => Sys2Proof.Machine.execVld2A1DoublePost size align d n s
  | .vld2A1DoubleIndex size align d n m => Sys2Proof.Machine.execVld2A1DoubleIndex size align d n m s
  | .vld2A2Offset size align d n => Sys2Proof.Machine.execVld2A2Offset size align d n s
  | .vld2A2Post size align d n => Sys2Proof.Machine.execVld2A2Post size align d n s
  | .vld2A2Index size align d n m => Sys2Proof.Machine.execVld2A2Index size align d n m s
  | .undefinedT1Align shape size d n m => Sys2Proof.Machine.execUndefinedT1Align shape size d n m s
  | .undefinedT1Size shape align d n m => Sys2Proof.Machine.execUndefinedT1Size shape align d n m s
  | .undefinedT2Size align d n m => Sys2Proof.Machine.execUndefinedT2Size align d n m s
  | .unpredictableT1BasePC shape size align d m => Sys2Proof.Machine.execUnpredictableT1BasePC shape size align d m s
  | .unpredictableT2BasePC size align d m => Sys2Proof.Machine.execUnpredictableT2BasePC size align d m s
  | .unpredictableT1SingleD31 size align n m => Sys2Proof.Machine.execUnpredictableT1SingleD31 size align n m s
  | .unpredictableT1DoubleD30 size align d n m => Sys2Proof.Machine.execUnpredictableT1DoubleD30 size align d n m s
  | .unpredictableT2D30 size align d n m => Sys2Proof.Machine.execUnpredictableT2D30 size align d n m s
  | .unpredictableT2D29 size align n m => Sys2Proof.Machine.execUnpredictableT2D29 size align n m s
  | .vld2T1SingleOffset size align d n => Sys2Proof.Machine.execVld2T1SingleOffset size align d n s
  | .vld2T1SinglePost size align d n => Sys2Proof.Machine.execVld2T1SinglePost size align d n s
  | .vld2T1SingleIndex size align d n m => Sys2Proof.Machine.execVld2T1SingleIndex size align d n m s
  | .vld2T1DoubleOffset size align d n => Sys2Proof.Machine.execVld2T1DoubleOffset size align d n s
  | .vld2T1DoublePost size align d n => Sys2Proof.Machine.execVld2T1DoublePost size align d n s
  | .vld2T1DoubleIndex size align d n m => Sys2Proof.Machine.execVld2T1DoubleIndex size align d n m s
  | .vld2T2Offset size align d n => Sys2Proof.Machine.execVld2T2Offset size align d n s
  | .vld2T2Post size align d n => Sys2Proof.Machine.execVld2T2Post size align d n s
  | .vld2T2Index size align d n m => Sys2Proof.Machine.execVld2T2Index size align d n m s

end Sys2Proof.Machine
end

