-- ==== Sys2Proof/Decode.lean ====
section
/-! DEFINITION. The decoder, total on any bytes and rejecting by name, and after it the encoder, both from
the encoding diagrams (rules R60 to R66, R73 to R76, R81) and the instruction layout (rule R43). -/

namespace Sys2Proof

/-! ### Field values and their bits -/

/-- Bits [31:23] of every word of the instruction set's two encodings (rules R61 to R64). -/
def ISet.prefixBits : ISet → BitVec 9
  | .a32 => 0b111101000#9
  | .t32 => 0b111110010#9

/-- `itype`, bits [11:8] (rule R72). -/
def Shape.bits : Shape → BitVec 4
  | .single => 0b1000#4
  | .double => 0b1001#4
  | .four => 0b0011#4

/-- The list that an `itype` value selects; the other values are not this instruction (rules R73, R76). -/
def Shape.ofBits (b : BitVec 4) : Option Shape :=
  if b = 0b1000#4 then some .single
  else if b = 0b1001#4 then some .double
  else if b = 0b0011#4 then some .four
  else none

/-- The `size` field, bits [7:6] (rule R69). -/
def SizeField.bits : SizeField → BitVec 2
  | .b8 => 0b00#2
  | .b16 => 0b01#2
  | .b32 => 0b10#2
  | .reserved => 0b11#2

/-- The name of a `size` field value (rule R69). -/
def SizeField.ofBits (b : BitVec 2) : SizeField :=
  if b = 0b00#2 then .b8
  else if b = 0b01#2 then .b16
  else if b = 0b10#2 then .b32
  else .reserved

/-- The `align` field, bits [5:4] (rule R70). -/
def AlignField.bits : AlignField → BitVec 2
  | .omitted => 0b00#2
  | .a64 => 0b01#2
  | .a128 => 0b10#2
  | .a256 => 0b11#2

/-- The name of an `align` field value (rule R70). -/
def AlignField.ofBits (b : BitVec 2) : AlignField :=
  if b = 0b00#2 then .omitted
  else if b = 0b01#2 then .a64
  else if b = 0b10#2 then .a128
  else .a256

/-! ### Decoding a 32-bit pattern -/

/-- The fields of a 32-bit word (for T32, `hw1:hw2`), where it belongs to one of the instruction set's two
patterns; `none` where it does not (rules R61 to R66; rule R73, items 1 and 4). -/
def fieldsOfWord (iset : ISet) (w : BitVec 32) : Option Fields :=
  if w.extractLsb' 23 9 = iset.prefixBits ∧ w.extractLsb' 20 2 = 0b10#2 then
    match Shape.ofBits (w.extractLsb' 8 4) with
    | none => none
    | some shape =>
      some
        { iset := iset
          shape := shape
          size := SizeField.ofBits (w.extractLsb' 6 2)
          align := AlignField.ofBits (w.extractLsb' 4 2)
          d := (w.extractLsb' 22 1 ++ w.extractLsb' 12 4).toFin
          n := (w.extractLsb' 16 4).toFin
          m := (w.extractLsb' 0 4).toFin }
  else none

/-- The A32 instruction that the fields of an A1 or A2 word stand for, in the order of the source's tests:
UNDEFINED, then UNPREDICTABLE, then the addressing form (rules R71, R73, R74, R75, R91, R92). -/
def classifyA32 (shape : Shape) (size : SizeField) (align : AlignField) (d : DReg) (n m : GField) : Instr :=
  match shape with
  | .single =>
    if align = .a256 then .undefinedA1Align shape size d n m
    else if size = .reserved then .undefinedA1Size shape align d n m
    else if n = 15 then .unpredictableA1BasePC shape size align d m
    else if d = 31 then .unpredictableA1SingleD31 size align n m
    else if m = 15 then .vld2A1SingleOffset size align d n
    else if m = 13 then .vld2A1SinglePost size align d n
    else .vld2A1SingleIndex size align d n m
  | .double =>
    if align = .a256 then .undefinedA1Align shape size d n m
    else if size = .reserved then .undefinedA1Size shape align d n m
    else if n = 15 then .unpredictableA1BasePC shape size align d m
    else if 30 ≤ d.val then .unpredictableA1DoubleD30 size align d n m
    else if m = 15 then .vld2A1DoubleOffset size align d n
    else if m = 13 then .vld2A1DoublePost size align d n
    else .vld2A1DoubleIndex size align d n m
  | .four =>
    if size = .reserved then .undefinedA2Size align d n m
    else if n = 15 then .unpredictableA2BasePC size align d m
    else if 30 ≤ d.val then .unpredictableA2D30 size align d n m
    else if d = 29 then .unpredictableA2D29 size align n m
    else if m = 15 then .vld2A2Offset size align d n
    else if m = 13 then .vld2A2Post size align d n
    else .vld2A2Index size align d n m

/-- The T32 instruction that the fields of a T1 or T2 word stand for; the decode text of T1 is that of A1 and
that of T2 is that of A2 (rules R93, R94). -/
def classifyT32 (shape : Shape) (size : SizeField) (align : AlignField) (d : DReg) (n m : GField) : Instr :=
  match shape with
  | .single =>
    if align = .a256 then .undefinedT1Align shape size d n m
    else if size = .reserved then .undefinedT1Size shape align d n m
    else if n = 15 then .unpredictableT1BasePC shape size align d m
    else if d = 31 then .unpredictableT1SingleD31 size align n m
    else if m = 15 then .vld2T1SingleOffset size align d n
    else if m = 13 then .vld2T1SinglePost size align d n
    else .vld2T1SingleIndex size align d n m
  | .double =>
    if align = .a256 then .undefinedT1Align shape size d n m
    else if size = .reserved then .undefinedT1Size shape align d n m
    else if n = 15 then .unpredictableT1BasePC shape size align d m
    else if 30 ≤ d.val then .unpredictableT1DoubleD30 size align d n m
    else if m = 15 then .vld2T1DoubleOffset size align d n
    else if m = 13 then .vld2T1DoublePost size align d n
    else .vld2T1DoubleIndex size align d n m
  | .four =>
    if size = .reserved then .undefinedT2Size align d n m
    else if n = 15 then .unpredictableT2BasePC size align d m
    else if 30 ≤ d.val then .unpredictableT2D30 size align d n m
    else if d = 29 then .unpredictableT2D29 size align n m
    else if m = 15 then .vld2T2Offset size align d n
    else if m = 13 then .vld2T2Post size align d n
    else .vld2T2Index size align d n m

/-- The instruction that a word's fields stand for (rule R73, items 2 and 3). -/
def classify (f : Fields) : Instr :=
  match f.iset with
  | .a32 => classifyA32 f.shape f.size f.align f.d f.n f.m
  | .t32 => classifyT32 f.shape f.size f.align f.d f.n f.m

/-- The instruction of a 32-bit pattern in an instruction set, `none` where the pattern is not this instruction
(rules R73, R76). -/
def decodeWord (iset : ISet) (w : BitVec 32) : Option Instr :=
  (fieldsOfWord iset w).map classify

/-! ### Instruction bytes -/

/-- The four bytes of a 32-bit pattern as instruction memory holds them, lowest address first (rule R43): one
little-endian word in A32; in T32 `hw1` and then `hw2`, each little-endian. -/
def bytesOfWord (iset : ISet) (w : BitVec 32) : List Byte :=
  match iset with
  | .a32 => [w.extractLsb' 0 8, w.extractLsb' 8 8, w.extractLsb' 16 8, w.extractLsb' 24 8]
  | .t32 => [w.extractLsb' 16 8, w.extractLsb' 24 8, w.extractLsb' 0 8, w.extractLsb' 8 8]

/-- The 32-bit pattern of four instruction bytes, lowest address first (rule R43). -/
def wordOfBytes (iset : ISet) (b0 b1 b2 b3 : Byte) : BitVec 32 :=
  match iset with
  | .a32 => b3 ++ b2 ++ b1 ++ b0
  | .t32 => b1 ++ b0 ++ b3 ++ b2

/-- Why the decoder rejects bytes. -/
inductive DecodeReject where
  /-- The bytes end before the instruction does. -/
  | truncated
  /-- The bytes are not this instruction (rule R76; decision D22). -/
  | notThisInstruction
deriving DecidableEq, Repr

/-- A T32 first halfword with this upper byte begins a 32-bit instruction: bits [15:11] are 11101, 11110 or
11111 (rule R81). -/
def t32Wide (upper : Byte) : Bool :=
  upper.extractLsb' 3 5 = 0b11101#5 || upper.extractLsb' 3 5 = 0b11110#5 || upper.extractLsb' 3 5 = 0b11111#5

/-- The instruction at the head of the bytes and the bytes that follow it. A T32 halfword that is a whole
instruction by itself is not this instruction, however few bytes follow it (rule R81). -/
def decode (iset : ISet) : List Byte → Except DecodeReject (Instr × List Byte)
  | b0 :: b1 :: b2 :: b3 :: rest =>
    match decodeWord iset (wordOfBytes iset b0 b1 b2 b3) with
    | some i => .ok (i, rest)
    | none => .error .notThisInstruction
  | _ :: b1 :: _ =>
    if iset = .t32 ∧ t32Wide b1 = false then .error .notThisInstruction else .error .truncated
  | _ => .error .truncated

/-- The instruction set whose patterns a word's bits [31:23] belong to, if either (rule R73, item 1): no word
belongs to both. -/
def isetOfWord (w : BitVec 32) : Option ISet :=
  if w.extractLsb' 23 9 = ISet.prefixBits .a32 then some .a32
  else if w.extractLsb' 23 9 = ISet.prefixBits .t32 then some .t32
  else none

/-- The 32-bit pattern of a table word of `nbits` bits: the bits above them are 0. -/
def tableWord (nbits w : Nat) : BitVec 32 :=
  BitVec.ofNat 32 (w % 2 ^ nbits)

/-- The instruction that the decoder reads from the bytes of a table word, numbered as spec/opcode_table.json
numbers it: in a T32 row bits 31 to 16 are `hw1`, which is the halfword at the lower address (rules R43, R60). -/
def decodeTableWord (nbits w : Nat) : Option Instr :=
  match isetOfWord (tableWord nbits w) with
  | none => none
  | some iset =>
    match decode iset (bytesOfWord iset (tableWord nbits w)) with
    | .ok (i, _) => some i
    | .error _ => none

/-! ### Encoding -/

/-- The field values that an instruction stands for. `m` = 15 is the form without write-back and `m` = 13
the form post-indexed by the bytes loaded (rule R71). -/
def Instr.fields : Instr → Fields
  | .undefinedA1Align sh sz d n m => ⟨.a32, sh, sz, .a256, d, n, m⟩
  | .undefinedA1Size sh al d n m => ⟨.a32, sh, .reserved, al, d, n, m⟩
  | .undefinedA2Size al d n m => ⟨.a32, .four, .reserved, al, d, n, m⟩
  | .unpredictableA1BasePC sh sz al d m => ⟨.a32, sh, sz, al, d, 15, m⟩
  | .unpredictableA2BasePC sz al d m => ⟨.a32, .four, sz, al, d, 15, m⟩
  | .unpredictableA1SingleD31 sz al n m => ⟨.a32, .single, sz, al, 31, n, m⟩
  | .unpredictableA1DoubleD30 sz al d n m => ⟨.a32, .double, sz, al, d, n, m⟩
  | .unpredictableA2D30 sz al d n m => ⟨.a32, .four, sz, al, d, n, m⟩
  | .unpredictableA2D29 sz al n m => ⟨.a32, .four, sz, al, 29, n, m⟩
  | .vld2A1SingleOffset sz al d n => ⟨.a32, .single, sz, al, d, n, 15⟩
  | .vld2A1SinglePost sz al d n => ⟨.a32, .single, sz, al, d, n, 13⟩
  | .vld2A1SingleIndex sz al d n m => ⟨.a32, .single, sz, al, d, n, m⟩
  | .vld2A1DoubleOffset sz al d n => ⟨.a32, .double, sz, al, d, n, 15⟩
  | .vld2A1DoublePost sz al d n => ⟨.a32, .double, sz, al, d, n, 13⟩
  | .vld2A1DoubleIndex sz al d n m => ⟨.a32, .double, sz, al, d, n, m⟩
  | .vld2A2Offset sz al d n => ⟨.a32, .four, sz, al, d, n, 15⟩
  | .vld2A2Post sz al d n => ⟨.a32, .four, sz, al, d, n, 13⟩
  | .vld2A2Index sz al d n m => ⟨.a32, .four, sz, al, d, n, m⟩
  | .undefinedT1Align sh sz d n m => ⟨.t32, sh, sz, .a256, d, n, m⟩
  | .undefinedT1Size sh al d n m => ⟨.t32, sh, .reserved, al, d, n, m⟩
  | .undefinedT2Size al d n m => ⟨.t32, .four, .reserved, al, d, n, m⟩
  | .unpredictableT1BasePC sh sz al d m => ⟨.t32, sh, sz, al, d, 15, m⟩
  | .unpredictableT2BasePC sz al d m => ⟨.t32, .four, sz, al, d, 15, m⟩
  | .unpredictableT1SingleD31 sz al n m => ⟨.t32, .single, sz, al, 31, n, m⟩
  | .unpredictableT1DoubleD30 sz al d n m => ⟨.t32, .double, sz, al, d, n, m⟩
  | .unpredictableT2D30 sz al d n m => ⟨.t32, .four, sz, al, d, n, m⟩
  | .unpredictableT2D29 sz al n m => ⟨.t32, .four, sz, al, 29, n, m⟩
  | .vld2T1SingleOffset sz al d n => ⟨.t32, .single, sz, al, d, n, 15⟩
  | .vld2T1SinglePost sz al d n => ⟨.t32, .single, sz, al, d, n, 13⟩
  | .vld2T1SingleIndex sz al d n m => ⟨.t32, .single, sz, al, d, n, m⟩
  | .vld2T1DoubleOffset sz al d n => ⟨.t32, .double, sz, al, d, n, 15⟩
  | .vld2T1DoublePost sz al d n => ⟨.t32, .double, sz, al, d, n, 13⟩
  | .vld2T1DoubleIndex sz al d n m => ⟨.t32, .double, sz, al, d, n, m⟩
  | .vld2T2Offset sz al d n => ⟨.t32, .four, sz, al, d, n, 15⟩
  | .vld2T2Post sz al d n => ⟨.t32, .four, sz, al, d, n, 13⟩
  | .vld2T2Index sz al d n m => ⟨.t32, .four, sz, al, d, n, m⟩

/-- The instruction set an instruction belongs to. -/
def Instr.iset (i : Instr) : ISet := i.fields.iset

/-- The word with the given fields: the prefix, `D`, `L` = 1 and bit 20 = 0, `Rn`, `Vd`, `itype`, `size`, `align`,
`Rm` (rules R61 to R64). -/
def encodeFields (f : Fields) : BitVec 32 :=
  f.iset.prefixBits ++ (BitVec.ofFin (w := 5) f.d).extractLsb' 4 1 ++ 0b10#2 ++ BitVec.ofFin (w := 4) f.n
    ++ (BitVec.ofFin (w := 5) f.d).extractLsb' 0 4 ++ f.shape.bits ++ f.size.bits ++ f.align.bits
    ++ BitVec.ofFin (w := 4) f.m

/-- The 32-bit pattern of an instruction; for T32, `hw1:hw2` (rules R60 to R64). -/
def encode (i : Instr) : BitVec 32 := encodeFields i.fields

/-- The bytes of an instruction as instruction memory holds them, lowest address first (rule R43). -/
def encodeBytes (i : Instr) : List Byte := bytesOfWord i.iset (encode i)

/-! ### The opcode table -/

/-- One row of spec/opcode_table.json: a word of the instruction set belongs to it when its bits under `mask`
are `value` and no earlier row has the word (rules R65, R73). -/
structure OpcodeRow where
  iset : ISet
  value : BitVec 32
  mask : BitVec 32
deriving DecidableEq, Repr

/-- The word is one of the row's. -/
def OpcodeRow.hit (r : OpcodeRow) (iset : ISet) (w : BitVec 32) : Bool :=
  r.iset == iset && w &&& r.mask == r.value

/-- The A32 rows of spec/opcode_table.json, in its order. -/
def opcodeRowsA32 : List OpcodeRow :=
  [ ⟨.a32, 0xF4200830#32, 0xFFB00E30#32⟩
  , ⟨.a32, 0xF42008C0#32, 0xFFB00EC0#32⟩
  , ⟨.a32, 0xF42003C0#32, 0xFFB00FC0#32⟩
  , ⟨.a32, 0xF42F0800#32, 0xFFBF0E00#32⟩
  , ⟨.a32, 0xF42F0300#32, 0xFFBF0F00#32⟩
  , ⟨.a32, 0xF460F800#32, 0xFFF0FF00#32⟩
  , ⟨.a32, 0xF460E900#32, 0xFFF0EF00#32⟩
  , ⟨.a32, 0xF460E300#32, 0xFFF0EF00#32⟩
  , ⟨.a32, 0xF460D300#32, 0xFFF0FF00#32⟩
  , ⟨.a32, 0xF420080F#32, 0xFFB00F0F#32⟩
  , ⟨.a32, 0xF420080D#32, 0xFFB00F0F#32⟩
  , ⟨.a32, 0xF4200800#32, 0xFFB00F00#32⟩
  , ⟨.a32, 0xF420090F#32, 0xFFB00F0F#32⟩
  , ⟨.a32, 0xF420090D#32, 0xFFB00F0F#32⟩
  , ⟨.a32, 0xF4200900#32, 0xFFB00F00#32⟩
  , ⟨.a32, 0xF420030F#32, 0xFFB00F0F#32⟩
  , ⟨.a32, 0xF420030D#32, 0xFFB00F0F#32⟩
  , ⟨.a32, 0xF4200300#32, 0xFFB00F00#32⟩ ]

/-- The T32 rows of spec/opcode_table.json, in its order. -/
def opcodeRowsT32 : List OpcodeRow :=
  [ ⟨.t32, 0xF9200830#32, 0xFFB00E30#32⟩
  , ⟨.t32, 0xF92008C0#32, 0xFFB00EC0#32⟩
  , ⟨.t32, 0xF92003C0#32, 0xFFB00FC0#32⟩
  , ⟨.t32, 0xF92F0800#32, 0xFFBF0E00#32⟩
  , ⟨.t32, 0xF92F0300#32, 0xFFBF0F00#32⟩
  , ⟨.t32, 0xF960F800#32, 0xFFF0FF00#32⟩
  , ⟨.t32, 0xF960E900#32, 0xFFF0EF00#32⟩
  , ⟨.t32, 0xF960E300#32, 0xFFF0EF00#32⟩
  , ⟨.t32, 0xF960D300#32, 0xFFF0FF00#32⟩
  , ⟨.t32, 0xF920080F#32, 0xFFB00F0F#32⟩
  , ⟨.t32, 0xF920080D#32, 0xFFB00F0F#32⟩
  , ⟨.t32, 0xF9200800#32, 0xFFB00F00#32⟩
  , ⟨.t32, 0xF920090F#32, 0xFFB00F0F#32⟩
  , ⟨.t32, 0xF920090D#32, 0xFFB00F0F#32⟩
  , ⟨.t32, 0xF9200900#32, 0xFFB00F00#32⟩
  , ⟨.t32, 0xF920030F#32, 0xFFB00F0F#32⟩
  , ⟨.t32, 0xF920030D#32, 0xFFB00F0F#32⟩
  , ⟨.t32, 0xF9200300#32, 0xFFB00F00#32⟩ ]

/-- The rows of spec/opcode_table.json, in its order. -/
def opcodeTable : List OpcodeRow := opcodeRowsA32 ++ opcodeRowsT32

/-- The number of the first row that a word of an instruction set belongs to (rule R73: first match wins). -/
def tableRow (iset : ISet) (w : BitVec 32) : Option Nat :=
  opcodeTable.findIdx? fun r => r.hit iset w

/-- The number of the table row that a constructor stands for. -/
def Instr.row : Instr → Nat
  | .undefinedA1Align _ _ _ _ _ => 0
  | .undefinedA1Size _ _ _ _ _ => 1
  | .undefinedA2Size _ _ _ _ => 2
  | .unpredictableA1BasePC _ _ _ _ _ => 3
  | .unpredictableA2BasePC _ _ _ _ => 4
  | .unpredictableA1SingleD31 _ _ _ _ => 5
  | .unpredictableA1DoubleD30 _ _ _ _ _ => 6
  | .unpredictableA2D30 _ _ _ _ _ => 7
  | .unpredictableA2D29 _ _ _ _ => 8
  | .vld2A1SingleOffset _ _ _ _ => 9
  | .vld2A1SinglePost _ _ _ _ => 10
  | .vld2A1SingleIndex _ _ _ _ _ => 11
  | .vld2A1DoubleOffset _ _ _ _ => 12
  | .vld2A1DoublePost _ _ _ _ => 13
  | .vld2A1DoubleIndex _ _ _ _ _ => 14
  | .vld2A2Offset _ _ _ _ => 15
  | .vld2A2Post _ _ _ _ => 16
  | .vld2A2Index _ _ _ _ _ => 17
  | .undefinedT1Align _ _ _ _ _ => 18
  | .undefinedT1Size _ _ _ _ _ => 19
  | .undefinedT2Size _ _ _ _ => 20
  | .unpredictableT1BasePC _ _ _ _ _ => 21
  | .unpredictableT2BasePC _ _ _ _ => 22
  | .unpredictableT1SingleD31 _ _ _ _ => 23
  | .unpredictableT1DoubleD30 _ _ _ _ _ => 24
  | .unpredictableT2D30 _ _ _ _ _ => 25
  | .unpredictableT2D29 _ _ _ _ => 26
  | .vld2T1SingleOffset _ _ _ _ => 27
  | .vld2T1SinglePost _ _ _ _ => 28
  | .vld2T1SingleIndex _ _ _ _ _ => 29
  | .vld2T1DoubleOffset _ _ _ _ => 30
  | .vld2T1DoublePost _ _ _ _ => 31
  | .vld2T1DoubleIndex _ _ _ _ _ => 32
  | .vld2T2Offset _ _ _ _ => 33
  | .vld2T2Post _ _ _ _ => 34
  | .vld2T2Index _ _ _ _ _ => 35

end Sys2Proof
end

