-- ==== Sys2Proof/Machine/Fetch.lean ====
section
/-! DEFINITION. Fetching the instruction at the program counter from the program text (rules R43, R46, R53, R76, R163),
and placing one there. -/

namespace Sys2Proof.Machine

/-- The instruction set's alignment of the program counter, in bytes (rule R46). -/
def fetchAlignment : ISet → Nat
  | .a32 => 4
  | .t32 => 2

/-- The address rounded down to a multiple of `k` (rule R187, `Align`). -/
def alignDown (a : Word) (k : Nat) : Word := BitVec.ofNat 32 (a.toNat - a.toNat % k)

/-- The bytes of the program text from the program counter on, up to an instruction's length and up to the top of the
address space. -/
def State.fetchBytes (s : State) : List Byte :=
  s.text.readUpTo s.pc.toNat (min Config.instrBytes (Config.addressSpace - s.pc.toNat))

/-- The instruction at the program counter, or why there is none. Instruction bytes are read in their own order whatever
the data byte order (rule R43). A T32 instruction that starts in the last two bytes of the address space is refused
(notes/assumptions/11.md).

The alignment is tested first: rule R46 refuses a misaligned program counter without condition, also outside the program text, and
such a state is no end of a run (rules R163, R189; notes/assumptions/24.md, DEDUCED). -/
def State.fetch (s : State) : Except Refusal Instr :=
  if s.pc.toNat % fetchAlignment s.iset ≠ 0 then .error (.unmodelled .misalignedPC)
  else
    match decode s.iset s.fetchBytes with
    | .ok (i, _) => .ok i
    | .error .notThisInstruction => .error .notThisInstruction
    | .error .truncated =>
      if s.pc.toNat + s.fetchBytes.length = Config.addressSpace then .error (.unmodelled .fetchWrap)
      else .error .noInstruction

/-- The address at which `State.placeWord` stores an instruction: the program counter, rounded down only where no
instruction of the set could be fetched at it. -/
def placeAddress (iset : ISet) (pc : Word) : Word :=
  if pc.toNat % fetchAlignment iset = 0 ∧ pc.toNat + Config.instrBytes ≤ Config.addressSpace then pc
  else alignDown pc Config.instrBytes

/-- The state with a 32-bit pattern stored as the instruction at the program counter: the instruction set is the one
whose patterns the word's bits [31:23] belong to (the state's own where they belong to neither). -/
def State.placeWord (s : State) (w : BitVec 32) : State :=
  let iset := (isetOfWord w).getD s.iset
  let pc := placeAddress iset s.pc
  { s with
    iset := iset
    pc := pc
    text := s.text.writeBytes pc.toNat (bytesOfWord iset w) }

end Sys2Proof.Machine
end

