-- ==== Sys2Proof/Machine/Step.lean ====
section
/-! DEFINITION. One step of the machine, and the state whose next step runs a given word. -/

namespace Sys2Proof.Machine

/-- One step: the instruction at the program counter is fetched and executed (rule R189: a next state, a fault or a
refusal). -/
def step (s : State) : Host.Outcome State Fault Refusal :=
  match s.fetch with
  | .ok i => exec i s
  | .error r => refuse r

/-- `s` with a table word of `nbits` bits stored as the instruction that the next step fetches. A word of A32 is
fetched in A32 and a word of T32 in T32 (notes/assumptions/10.md). -/
def State.withFetchWord (s : State) (nbits w : Nat) : State :=
  s.placeWord (tableWord nbits w)

end Sys2Proof.Machine
end

