-- ==== Sys2Proof/Machine/Assembly.lean ====
section
/-! DEFINITION. The assembler forms of VLD2 as data (rules R78 to R80): what a source line says, the instruction an
assembler makes of it, what an assembler must reject, and the line that an instruction stands for. -/

namespace Sys2Proof.Machine

/-- The conditions that `<c>` may name (rules R26, R79). -/
inductive Condition where
  | eq | ne | cs | cc | mi | pl | vs | vc | hi | ls | ge | lt | gt | le | al
deriving DecidableEq, Repr

/-- The `<q>` qualifier, `.N` or `.W`; it has no effect on the encoding (rule R79). -/
inductive Qualifier where
  | narrow
  | wide
deriving DecidableEq, Repr

/-- The separator before the alignment value: the preferred colon, or the at sign (rules R79, R80). -/
inductive AlignSeparator where
  | colon
  | atSign
deriving DecidableEq, Repr

/-- The three assembler forms (rule R78). -/
inductive AddressingForm where
  /-- Nothing after the address. -/
  | offset
  /-- An exclamation mark after the address. -/
  | post
  /-- An index register after the address. -/
  | index (m : GField)
deriving DecidableEq, Repr

/-- A source line `VLD2<c><q>.<size> <list>, [<Rn>:<align>]` with its addressing form (rules R78, R79). Nothing here is
checked: `size` and `align` are the numbers written, `list` the numbers of the D registers written. -/
structure AsmLine where
  iset : ISet
  condition : Option Condition
  qualifier : Option Qualifier
  size : Nat
  list : List Nat
  n : GField
  align : Option Nat
  separator : AlignSeparator
  form : AddressingForm
deriving DecidableEq, Repr

/-- The `size` field of `<size>`; every other number is rejected (rules R79, R80). -/
def asmSize (size : Nat) : Option SizeField :=
  if size = 8 then some .b8 else if size = 16 then some .b16 else if size = 32 then some .b32 else none

/-- The first register and the shape of `<list>`: Dd and Dd+1, or Dd and Dd+2, or Dd to Dd+3, none past D31 (rules
R79, R80). -/
def asmList : List Nat → Option (Shape × DReg)
  | [a, b] =>
    if h : a < 32 then
      if b = a + 1 ∧ b < 32 then some (.single, ⟨a, h⟩)
      else if b = a + 2 ∧ b < 32 then some (.double, ⟨a, h⟩)
      else none
    else none
  | [a, b, c, e] =>
    if h : a < 32 then
      if b = a + 1 ∧ c = a + 2 ∧ e = a + 3 ∧ e < 32 then some (.four, ⟨a, h⟩) else none
    else none
  | _ => none

/-- The `align` field of `<align>`: 256 only with a four-register list (rules R79, R80). -/
def asmAlign (shape : Shape) : Option Nat → Option AlignField
  | none => some .omitted
  | some a =>
    if a = 64 then some .a64
    else if a = 128 then some .a128
    else if a = 256 ∧ shape = .four then some .a256
    else none

/-- The `Rm` field of the addressing form: an index register is neither SP nor PC (rules R71, R79, R110). -/
def asmForm : AddressingForm → Option GField
  | .offset => some 15
  | .post => some 13
  | .index m => if m.index then some m else none

/-- The condition may be written: in A32 none but AL; in T32 any, and it stands in no field (rules R79, R80). -/
def asmConditionAllowed (iset : ISet) : Option Condition → Bool
  | none => true
  | some c =>
    match iset with
    | .a32 => c == .al
    | .t32 => true

/-- The instruction that an assembler makes of a line, or `none` where it must reject the line (rule R80). -/
def assemble (l : AsmLine) : Option Instr :=
  if asmConditionAllowed l.iset l.condition && l.n.base then
    match asmSize l.size, asmList l.list with
    | some size, some (shape, d) =>
      match asmAlign shape l.align, asmForm l.form with
      | some align, some m =>
        some (classify { iset := l.iset, shape := shape, size := size, align := align, d := d, n := l.n, m := m })
      | _, _ => none
    | _, _ => none
  else none

/-- `<size>` as written (rule R69). -/
def sizeText : SizeField → Option Nat
  | .b8 => some 8
  | .b16 => some 16
  | .b32 => some 32
  | .reserved => none

/-- `<align>` as written (rule R70). -/
def alignText : AlignField → Option Nat
  | .omitted => none
  | .a64 => some 64
  | .a128 => some 128
  | .a256 => some 256

/-- `<list>` as written (rules R72, R79). -/
def listText (shape : Shape) (d : DReg) : List Nat :=
  match shape with
  | .single => [d.val, d.val + 1]
  | .double => [d.val, d.val + 2]
  | .four => [d.val, d.val + 1, d.val + 2, d.val + 3]

/-- The addressing form as written (rule R71). -/
def formText (m : GField) : AddressingForm :=
  if m = 15 then .offset else if m = 13 then .post else .index m

/-- The line that an instruction stands for, with no condition, no qualifier and the preferred separator; an UNDEFINED or
UNPREDICTABLE word has none (rules R78, R80). -/
def disassemble (i : Instr) : Option AsmLine :=
  let f := i.fields
  match sizeText f.size with
  | none => none
  | some size =>
    let l : AsmLine :=
      { iset := f.iset
        condition := none
        qualifier := none
        size := size
        list := listText f.shape f.d
        n := f.n
        align := alignText f.align
        separator := .colon
        form := formText f.m }
    if (assemble l).isSome then some l else none

end Sys2Proof.Machine
end

