-- ==== Sys2Proof/Safety.lean ====
section
/-! DEFINITION. What claims about the machine are stated in: when an instruction may complete, what it leaves
unchanged, what a final state and a safe run are. -/

namespace Sys2Proof.Machine

/-- Data memory holds every one of the `len` bytes from `base` on (rule R56). -/
def State.readable (s : State) (base len : Nat) : Prop :=
  ∀ a, base ≤ a → a < base + len → (s.mem.readByte a).isSome = true

/-- The value of the element of `n` bytes at an address, in the state's data byte order (rule R42), where memory holds
its bytes; 0 where it does not. -/
def State.elementAt (s : State) (a n : Nat) : DWord :=
  match s.mem.readBytes a n with
  | some bytes => elementValue s.bigEndian bytes
  | none => 0

/-- The state is one in which an instruction with these operands completes: Advanced SIMD is enabled (rule R134), the
base has the alignment of the qualifier (rule R44) and, under strict alignment, of the element (rule R45), and the
bytes to load lie inside the address space (rule R41), are side-effect free (rule R48) and are held by memory
(rule R56). -/
structure LoadReady (s : State) (n : Fin Config.numR) (alignment ebytes len : Nat) : Prop where
  enabled : s.simdAccess = .enabled
  aligned : (s.readR n).toNat % alignment = 0
  elementAligned : s.strictAlign = true → (s.readR n).toNat % ebytes = 0
  inside : (s.readR n).toNat + len ≤ Config.addressSpace
  noDevice : s.touchesDevice (s.readR n).toNat len = false
  readable : s.readable (s.readR n).toNat len

/-- Everything that no instruction changes, whatever its outcome: the instruction set, the condition flags, both
memories, the parameters and system registers, and the launch state's free choices (rules R27, R102). -/
structure SameContext (s t : State) : Prop where
  iset : t.iset = s.iset
  flagN : t.flagN = s.flagN
  flagZ : t.flagZ = s.flagZ
  flagC : t.flagC = s.flagC
  flagV : t.flagV = s.flagV
  mem : ∀ a, t.mem.readByte a = s.mem.readByte a
  text : ∀ a, t.text.readByte a = s.text.readByte a
  devices : t.devices = s.devices
  bigEndian : t.bigEndian = s.bigEndian
  strictAlign : t.strictAlign = s.strictAlign
  simdContext : t.simdContext = s.simdContext
  simdRule : t.simdRule = s.simdRule
  condFailChoices : t.condFailChoices = s.condFailChoices

/-- ITSTATE after an instruction that ends with a next state (rule R27). -/
def State.nextIT (s : State) : BitVec 8 :=
  match s.iset with
  | .a32 => s.itstate
  | .t32 => itAdvance s.itstate

/-- What a word of the four patterns is (rule R77): UNDEFINED, UNPREDICTABLE, or a load. -/
inductive WordKind where
  | undefined
  | unpredictable
  | load
deriving DecidableEq, Repr

/-- The kind of an instruction, by its constructor. -/
def kindOf : Instr → WordKind
  | .undefinedA1Align _ _ _ _ _ => .undefined
  | .undefinedA1Size _ _ _ _ _ => .undefined
  | .undefinedA2Size _ _ _ _ => .undefined
  | .unpredictableA1BasePC _ _ _ _ _ => .unpredictable
  | .unpredictableA2BasePC _ _ _ _ => .unpredictable
  | .unpredictableA1SingleD31 _ _ _ _ => .unpredictable
  | .unpredictableA1DoubleD30 _ _ _ _ _ => .unpredictable
  | .unpredictableA2D30 _ _ _ _ _ => .unpredictable
  | .unpredictableA2D29 _ _ _ _ => .unpredictable
  | .vld2A1SingleOffset _ _ _ _ => .load
  | .vld2A1SinglePost _ _ _ _ => .load
  | .vld2A1SingleIndex _ _ _ _ _ => .load
  | .vld2A1DoubleOffset _ _ _ _ => .load
  | .vld2A1DoublePost _ _ _ _ => .load
  | .vld2A1DoubleIndex _ _ _ _ _ => .load
  | .vld2A2Offset _ _ _ _ => .load
  | .vld2A2Post _ _ _ _ => .load
  | .vld2A2Index _ _ _ _ _ => .load
  | .undefinedT1Align _ _ _ _ _ => .undefined
  | .undefinedT1Size _ _ _ _ _ => .undefined
  | .undefinedT2Size _ _ _ _ => .undefined
  | .unpredictableT1BasePC _ _ _ _ _ => .unpredictable
  | .unpredictableT2BasePC _ _ _ _ => .unpredictable
  | .unpredictableT1SingleD31 _ _ _ _ => .unpredictable
  | .unpredictableT1DoubleD30 _ _ _ _ _ => .unpredictable
  | .unpredictableT2D30 _ _ _ _ _ => .unpredictable
  | .unpredictableT2D29 _ _ _ _ => .unpredictable
  | .vld2T1SingleOffset _ _ _ _ => .load
  | .vld2T1SinglePost _ _ _ _ => .load
  | .vld2T1SingleIndex _ _ _ _ _ => .load
  | .vld2T1DoubleOffset _ _ _ _ => .load
  | .vld2T1DoublePost _ _ _ _ => .load
  | .vld2T1DoubleIndex _ _ _ _ _ => .load
  | .vld2T2Offset _ _ _ _ => .load
  | .vld2T2Post _ _ _ _ => .load
  | .vld2T2Index _ _ _ _ _ => .load

/-- A base or index register R0 to R14 as the value of a register field. -/
def regField (n : Fin Config.numR) : GField := ⟨n.val, Nat.lt_of_lt_of_le n.isLt (by decide)⟩

/-- The D registers, the rest of the state but the base register, and the advance, after a load of `regs` pairs `inc`
apart from `D[d]` and the base register `n` (rules R24, R27, R100, R101, R102). The values loaded are those that memory
held before. -/
structure Loaded (s t : State) (regs inc ebytes d : Nat) (n : Fin Config.numR) : Prop where
  first : ∀ r < regs, ∀ e < 8 / ebytes, elemGet (t.readD (d + r)) e (8 * ebytes)
    = s.elementAt ((s.readR n).toNat + 16 * r + 2 * ebytes * e) ebytes
  second : ∀ r < regs, ∀ e < 8 / ebytes, elemGet (t.readD (d + inc + r)) e (8 * ebytes)
    = s.elementAt ((s.readR n).toNat + 16 * r + 2 * ebytes * e + ebytes) ebytes
  otherD : ∀ k < 32, (∀ r < regs, k ≠ d + r ∧ k ≠ d + inc + r) → t.readD k = s.readD k
  pc : t.pc = s.pc + 4#32
  itstate : t.itstate = s.nextIT
  context : SameContext s t
  freeIndex : t.freeIndex = s.freeIndex

/-- The general-purpose registers where the base register takes the value `v` and no other changes (rule R102). -/
def BaseBecomes (s t : State) (n : Fin Config.numR) (v : Word) : Prop :=
  t.readR n = v ∧ ∀ k, k ≠ n → t.readR k = s.readR k

/-- The three addressing forms of one register list complete with the registers loaded and the base register as the form
says (rules R71, R99): unchanged, increased by the bytes loaded, increased by the index register. -/
def FormsComplete (s : State) (regs inc ebytes : Nat) (d : DReg) (n : Fin Config.numR)
    (offset post : Instr) (index : GField → Instr) : Prop :=
  (∃ t, exec offset s = .next t ∧ Loaded s t regs inc ebytes d.val n ∧ BaseBecomes s t n (s.readR n))
  ∧ (∃ t, exec post s = .next t ∧ Loaded s t regs inc ebytes d.val n
      ∧ BaseBecomes s t n (s.readR n + BitVec.ofNat 32 (16 * regs)))
  ∧ (∀ m : Fin Config.numR, m.val ≠ 13 → ∃ t, exec (index (regField m)) s = .next t
      ∧ Loaded s t regs inc ebytes d.val n ∧ BaseBecomes s t n (s.readR n + s.readR m))

/-- What the decode pseudocode of an encoding computes from a 32-bit word (rules R91, R92): `regs` is the encoding's,
`inc` its register spacing, `alignTest` says whether it tests `align`. `r` is the decode's answer. -/
def DecodesAs (w : BitVec 32) (regs inc : Nat) (alignTest : Bool) (r : Except Stop LoadOperands) : Prop :=
  let size := (w.extractLsb' 6 2).toNat
  let align := (w.extractLsb' 4 2).toNat
  let d := 16 * (w.extractLsb' 22 1).toNat + (w.extractLsb' 12 4).toNat
  let n := (w.extractLsb' 16 4).toNat
  let m := (w.extractLsb' 0 4).toNat
  if alignTest = true ∧ align = 3 then r = .error (.fault .undefined)
  else if size = 3 then r = .error (.fault .undefined)
  else if n = 15 ∨ d + inc + regs > 32 then ∃ reason, r = .error (.refusal (.unpredictable reason))
  else ∃ p, r = .ok p
    ∧ p.regs = regs ∧ p.alignment = (if align = 0 then 1 else 4 * 2 ^ align)
    ∧ p.ebytes = 2 ^ size ∧ p.elements = 8 / 2 ^ size
    ∧ p.d = d ∧ p.d2 = d + inc ∧ p.n.val = n
    ∧ (m = 15 → p.writeBack = .none) ∧ (m = 13 → p.writeBack = .bytes)
    ∧ (m ≠ 15 → m ≠ 13 → ∃ k : Fin Config.numR, k.val = m ∧ p.writeBack = .index k)

/-- A fault with the state that it carries, if it carries one, changed. -/
def Fault.mapState (h : State → State) : Fault → Fault
  | .undefined => .undefined
  | .hypTrap => .hypTrap
  | .alignmentFault a => .alignmentFault a
  | .dataAbort a t => .dataAbort a (h t)

/-- An outcome with its next state, if it has one, changed by `g`, and the state that its fault carries, if it carries one,
by `h`. -/
def mapOutcome (g h : State → State) : Host.Outcome State Fault Refusal → Host.Outcome State Fault Refusal
  | .next t => .next (g t)
  | .fault r => .fault (r.mapState h)
  | .refused r => .refused r

/-- The numbers of the D registers that a list from `D[d]` names (rule R72). -/
def listed (shape : Shape) (d : Nat) : List Nat :=
  match shape with
  | .single => [d, d + 1]
  | .double => [d, d + 2]
  | .four => [d, d + 1, d + 2, d + 3]

/-- What a DataAbort leaves of the state (rules R56, R136; decision D11): everything but the D registers on the list, of which
nothing is said. -/
structure Aborted (s t : State) (shape : Shape) (d : Nat) : Prop where
  otherD : ∀ k < 32, k ∉ listed shape d → t.readD k = s.readD k
  gpr : t.gpr = s.gpr
  pc : t.pc = s.pc
  itstate : t.itstate = s.itstate
  context : SameContext s t

/-- The offsets of the footprint bytes that the first register of a two-register list holds, its least significant byte
first, in the little-endian byte order (rule R57). -/
def firstByteOffsets : SizeField → List Nat
  | .b8 => [0, 2, 4, 6, 8, 10, 12, 14]
  | .b16 => [0, 1, 4, 5, 8, 9, 12, 13]
  | .b32 => [0, 1, 2, 3, 8, 9, 10, 11]
  | .reserved => []

/-- The same in the big-endian byte order: the bytes inside each element in the opposite order (rule R57). -/
def firstByteOffsetsBig : SizeField → List Nat
  | .b8 => [0, 2, 4, 6, 8, 10, 12, 14]
  | .b16 => [1, 0, 5, 4, 9, 8, 13, 12]
  | .b32 => [3, 2, 1, 0, 11, 10, 9, 8]
  | .reserved => []

/-- The bytes of a D register, its least significant first, are those of memory at the given offsets from a base. -/
def BytesFrom (s : State) (v : DWord) (base : Nat) (offsets : List Nat) : Prop :=
  ∀ j < 8, ∃ o, offsets[j]? = some o ∧ s.mem.readByte (base + o) = some (v.extractLsb' (8 * j) 8)

/-- The state is a final state of a run (rule R163): the program text holds no byte at the program counter, and no refusal is
recorded. Rule R46 refuses a misaligned program counter without condition, and a refused state is not final (rule R189), so the
program counter is aligned (notes/assumptions/24.md, DEDUCED). -/
def State.final (s : State) : Bool :=
  decide (s.pc.toNat % fetchAlignment s.iset = 0) && (s.text.readByte s.pc.toNat).isNone

/-- The invariant of the machine: both memories are in canonical form and the program counter has the alignment of the
instruction set (rules R40, R46). -/
structure State.Inv (s : State) : Prop where
  mem : s.mem.wf = true
  text : s.text.wf = true
  pc : s.pc.toNat % fetchAlignment s.iset = 0

/-- A safe run: `k` steps with neither a fault nor a refusal. -/
def SafeRun (k : Nat) (s : State) : Prop := ∃ t, Host.Core.run Sys2Proof.core k s = .next t

end Sys2Proof.Machine
end

