-- ==== Sys2Proof/Certificates/Slice0/Obligations.lean ====
section
/-! DEFINITION. The statements for the provers, listed in OBLIGATIONS.json. Their words are in Sys2Proof/Safety.lean. -/

open Sys2Proof Sys2Proof.Machine

/-- The reset state, whose every value is the model's choice (notes/assumptions/1.md, 2.md and 6.md): the spec states none
(10_state.md section 7). -/
def Obligations.ResetHoldsTheModelsLaunchValues : Prop :=
  State.reset.iset = .a32 ∧ State.reset.pc = 0 ∧ (∀ n, State.reset.readR n = 0) ∧ (∀ i, State.reset.readD i = 0)
  ∧ State.reset.flagN = false ∧ State.reset.flagZ = false ∧ State.reset.flagC = false ∧ State.reset.flagV = false
  ∧ State.reset.itstate = 0 ∧ (∀ a, State.reset.mem.readByte a = none) ∧ (∀ a, State.reset.text.readByte a = none)
  ∧ State.reset.devices = [] ∧ State.reset.bigEndian = false ∧ State.reset.strictAlign = false
  ∧ State.reset.simdContext = { cpacr := 0, nsacr := 0, hcptr := 0x000033FF#32, security := .secure, mode := 0b10011#5 }
  ∧ State.reset.simdAccess = .undefined

/-- The reset state has the invariant that every step keeps (its values are the model's choice, notes/assumptions/1.md). -/
def Obligations.ResetSatisfiesInvariant : Prop := State.reset.Inv

/-- Every step keeps the invariant, from every state that has it, whether or not a run reaches it (20_memory.md section 3: an
instruction cannot misalign the program counter). -/
def Obligations.StepKeepsInvariant : Prop :=
  ∀ s t : State, s.Inv → step s = .next t → t.Inv

/-- Decode of encode, for every row of the opcode table with every operand at every value that the row admits. -/
def Obligations.DecodeReadsBackEveryEncoding : Prop :=
  ∀ (i : Instr) (rest : List Byte), i.wf = true → decode i.iset (encodeBytes i ++ rest) = .ok (i, rest)

/-- Encode of decode: no word has a second meaning and no instruction a second word. -/
def Obligations.DecodedWordIsTheEncodingOfItsInstruction : Prop :=
  ∀ (iset : ISet) (w : BitVec 32) (i : Instr), decodeWord iset w = some i →
    i.wf = true ∧ i.iset = iset ∧ encode i = w

/-- The decoder and the opcode table, masks and first match, agree on all words of both instruction sets. -/
def Obligations.DecoderFollowsOpcodeTablePriority : Prop :=
  ∀ (iset : ISet) (w : BitVec 32), (decodeWord iset w).map Instr.row = tableRow iset w

/-- Rule R91: the decode pseudocode of encoding A1, on every word of its pattern. -/
def Obligations.DecodeOfA1FollowsItsPseudocode : Prop :=
  ∀ w : BitVec 32, w.extractLsb' 23 9 = 0b111101000#9 → w.extractLsb' 20 2 = 0b10#2 →
    (w.extractLsb' 8 4 = 0b1000#4 ∨ w.extractLsb' 8 4 = 0b1001#4) →
    ∃ i, decodeWord .a32 w = some i ∧ i.iset = .a32
      ∧ DecodesAs w 1 (if w.extractLsb' 8 4 = 0b1001#4 then 2 else 1) true (decodeOperands i.fields)

/-- Rule R92: the decode pseudocode of encoding A2, on every word of its pattern. -/
def Obligations.DecodeOfA2FollowsItsPseudocode : Prop :=
  ∀ w : BitVec 32, w.extractLsb' 23 9 = 0b111101000#9 → w.extractLsb' 20 2 = 0b10#2 →
    w.extractLsb' 8 4 = 0b0011#4 →
    ∃ i, decodeWord .a32 w = some i ∧ i.iset = .a32
      ∧ DecodesAs w 2 2 false (decodeOperands i.fields)

/-- Rule R93: the decode pseudocode of encoding T1, on every word of its pattern. -/
def Obligations.DecodeOfT1FollowsItsPseudocode : Prop :=
  ∀ w : BitVec 32, w.extractLsb' 23 9 = 0b111110010#9 → w.extractLsb' 20 2 = 0b10#2 →
    (w.extractLsb' 8 4 = 0b1000#4 ∨ w.extractLsb' 8 4 = 0b1001#4) →
    ∃ i, decodeWord .t32 w = some i ∧ i.iset = .t32
      ∧ DecodesAs w 1 (if w.extractLsb' 8 4 = 0b1001#4 then 2 else 1) true (decodeOperands i.fields)

/-- Rule R94: the decode pseudocode of encoding T2, on every word of its pattern. -/
def Obligations.DecodeOfT2FollowsItsPseudocode : Prop :=
  ∀ w : BitVec 32, w.extractLsb' 23 9 = 0b111110010#9 → w.extractLsb' 20 2 = 0b10#2 →
    w.extractLsb' 8 4 = 0b0011#4 →
    ∃ i, decodeWord .t32 w = some i ∧ i.iset = .t32
      ∧ DecodesAs w 2 2 false (decodeOperands i.fields)

/-- A sanity statement on single words: one of each encoding and kind, written out from the diagrams. -/
def Obligations.SampleWordsDecodeAsTheirDiagramsSay : Prop :=
  decodeWord .a32 0b11110100001000000000100001001101#32 = some (.vld2A1SinglePost .b16 .omitted 0 0)
  ∧ decodeWord .a32 0b11110100011000100000100100011111#32 = some (.vld2A1DoubleOffset .b8 .a64 16 2)
  ∧ decodeWord .a32 0b11110100011000011100001110000010#32 = some (.vld2A2Index .b32 .omitted 28 1 2)
  ∧ decodeWord .t32 0b11111001001011011000100101011101#32 = some (.vld2T1DoublePost .b16 .a64 8 13)
  ∧ decodeWord .t32 0b11111001001001001010001110110101#32 = some (.vld2T2Index .b32 .a256 10 4 5)
  ∧ decodeWord .a32 0b11110100001000000000100000111111#32 = some (.undefinedA1Align .single .b8 0 0 15)
  ∧ decodeWord .t32 0b11111001011000001101001100001111#32 = some (.unpredictableT2D29 .b8 .omitted 0 15)
  ∧ decodeWord .t32 0b11110100001000000000100000001111#32 = none

/-- The two instruction sets' words of equal fields (an inference that the spec draws in 40_vld2_multiple.md section 5). -/
def Obligations.T32WordIsTheA32WordWithItsTopByteChanged : Prop :=
  ∀ f : Fields,
    (encodeFields { f with iset := .t32 }).extractLsb' 0 24 = (encodeFields { f with iset := .a32 }).extractLsb' 0 24
    ∧ (encodeFields { f with iset := .a32 }).extractLsb' 24 8 = 0xF4#8
    ∧ (encodeFields { f with iset := .t32 }).extractLsb' 24 8 = 0xF9#8

/-- Equal fields in the two instruction sets: the same outcome, but for the instruction set and, in a next state, the If-Then
state (an inference that the spec draws in 40_vld2_multiple.md section 5). That the two runs agree also in what the spec leaves
open is the model's choice: the same one of decode stop and enable stop is reported (notes/assumptions/8.md), an abort reports the
same element (notes/assumptions/14.md) and leaves the same free values in the listed D registers (notes/assumptions/23.md). -/
def Obligations.T32FormsActAsA32Forms : Prop :=
  ∀ (f : Fields) (s : State), s.iset = .a32 → s.itstate.extractLsb' 0 4 = 0#4 →
    exec (classify { f with iset := .t32 }) { s with iset := .t32 }
      = mapOutcome (fun t => { t with iset := .t32, itstate := itAdvance t.itstate }) (fun t => { t with iset := .t32 })
          (exec (classify { f with iset := .a32 }) s)

/-- VLD2 of Dd and Dd+1 in A32 (40_vld2_multiple.md section 4, encoding A1 and the rules it cites; the values outside the encoding are the spec's decisions): every
addressing form completes in a ready state, with the structures de-interleaved into the listed registers, the base register
as its form says, and nothing else changed but the advance. -/
def Obligations.SingleSpacedA32LoadsDeinterleave : Prop :=
  ∀ (s : State) (size : SizeField) (ebytes : Nat) (align : AlignField) (d : DReg) (n : Fin Config.numR),
    elementBytes size = some ebytes → align ≠ .a256 → d.val ≤ 30 → s.iset = .a32 →
    LoadReady s n (alignmentBytes align) ebytes 16 →
    FormsComplete s 1 1 ebytes d n
      (.vld2A1SingleOffset size align d (regField n)) (.vld2A1SinglePost size align d (regField n))
      (.vld2A1SingleIndex size align d (regField n))

/-- VLD2 of Dd and Dd+2 in A32 (40_vld2_multiple.md section 4, encoding A1 and the rules it cites; the values outside the encoding are the spec's decisions): every
addressing form completes in a ready state, with the structures de-interleaved into the listed registers, the base register
as its form says, and nothing else changed but the advance. -/
def Obligations.DoubleSpacedA32LoadsDeinterleave : Prop :=
  ∀ (s : State) (size : SizeField) (ebytes : Nat) (align : AlignField) (d : DReg) (n : Fin Config.numR),
    elementBytes size = some ebytes → align ≠ .a256 → d.val ≤ 29 → s.iset = .a32 →
    LoadReady s n (alignmentBytes align) ebytes 16 →
    FormsComplete s 1 2 ebytes d n
      (.vld2A1DoubleOffset size align d (regField n)) (.vld2A1DoublePost size align d (regField n))
      (.vld2A1DoubleIndex size align d (regField n))

/-- VLD2 of Dd to Dd+3 in A32 (40_vld2_multiple.md section 4, encoding A2 and the rules it cites; the values outside the encoding are the spec's decisions): every
addressing form completes in a ready state, with the structures de-interleaved into the listed registers, the base register
as its form says, and nothing else changed but the advance. -/
def Obligations.FourRegisterA32LoadsDeinterleave : Prop :=
  ∀ (s : State) (size : SizeField) (ebytes : Nat) (align : AlignField) (d : DReg) (n : Fin Config.numR),
    elementBytes size = some ebytes → d.val ≤ 28 → s.iset = .a32 →
    LoadReady s n (alignmentBytes align) ebytes 32 →
    FormsComplete s 2 2 ebytes d n
      (.vld2A2Offset size align d (regField n)) (.vld2A2Post size align d (regField n))
      (.vld2A2Index size align d (regField n))

/-- VLD2 of Dd and Dd+1 in T32 (40_vld2_multiple.md section 4, encoding T1 and the rules it cites; the values outside the encoding are the spec's decisions): every
addressing form completes in a ready state, with the structures de-interleaved into the listed registers, the base register
as its form says, and nothing else changed but the advance. -/
def Obligations.SingleSpacedT32LoadsDeinterleave : Prop :=
  ∀ (s : State) (size : SizeField) (ebytes : Nat) (align : AlignField) (d : DReg) (n : Fin Config.numR),
    elementBytes size = some ebytes → align ≠ .a256 → d.val ≤ 30 → s.iset = .t32 → s.conditionPassed = true →
    LoadReady s n (alignmentBytes align) ebytes 16 →
    FormsComplete s 1 1 ebytes d n
      (.vld2T1SingleOffset size align d (regField n)) (.vld2T1SinglePost size align d (regField n))
      (.vld2T1SingleIndex size align d (regField n))

/-- VLD2 of Dd and Dd+2 in T32 (40_vld2_multiple.md section 4, encoding T1 and the rules it cites; the values outside the encoding are the spec's decisions): every
addressing form completes in a ready state, with the structures de-interleaved into the listed registers, the base register
as its form says, and nothing else changed but the advance. -/
def Obligations.DoubleSpacedT32LoadsDeinterleave : Prop :=
  ∀ (s : State) (size : SizeField) (ebytes : Nat) (align : AlignField) (d : DReg) (n : Fin Config.numR),
    elementBytes size = some ebytes → align ≠ .a256 → d.val ≤ 29 → s.iset = .t32 → s.conditionPassed = true →
    LoadReady s n (alignmentBytes align) ebytes 16 →
    FormsComplete s 1 2 ebytes d n
      (.vld2T1DoubleOffset size align d (regField n)) (.vld2T1DoublePost size align d (regField n))
      (.vld2T1DoubleIndex size align d (regField n))

/-- VLD2 of Dd to Dd+3 in T32 (40_vld2_multiple.md section 4, encoding T2 and the rules it cites; the values outside the encoding are the spec's decisions): every
addressing form completes in a ready state, with the structures de-interleaved into the listed registers, the base register
as its form says, and nothing else changed but the advance. -/
def Obligations.FourRegisterT32LoadsDeinterleave : Prop :=
  ∀ (s : State) (size : SizeField) (ebytes : Nat) (align : AlignField) (d : DReg) (n : Fin Config.numR),
    elementBytes size = some ebytes → d.val ≤ 28 → s.iset = .t32 → s.conditionPassed = true →
    LoadReady s n (alignmentBytes align) ebytes 32 →
    FormsComplete s 2 2 ebytes d n
      (.vld2T2Offset size align d (regField n)) (.vld2T2Post size align d (regField n))
      (.vld2T2Index size align d (regField n))

/-- The nine T32 loads in an IT block whose condition fails: no check, no access, no write-back. -/
def Obligations.FailedConditionOnlyAdvances : Prop :=
  ∀ (i : Instr) (s : State), i.wf = true → kindOf i = .load → i.iset = .t32 → s.iset = .t32 →
    s.conditionPassed = false → s.simdAccess = .enabled →
    exec i s = .next { s with pc := s.pc + 4#32, itstate := itAdvance s.itstate }

/-- Decision D23: both outcomes are admitted, and which one is a free choice (notes/assumptions/7.md). That the stop is the very one
that the word has outside the IT block, where either the decode's or the enable check's may be reported, is the model's choice
(notes/assumptions/8.md). -/
def Obligations.FailedConditionOfAStoppingWordAdvancesOrStops : Prop :=
  ∀ (i : Instr) (s : State), i.wf = true → i.iset = .t32 → s.iset = .t32 → s.conditionPassed = false →
    (kindOf i ≠ .load ∨ s.simdAccess ≠ .enabled) →
    (∀ t, exec i { s with itstate := 0#8 } ≠ .next t)
    ∧ (exec i s = .next { s with pc := s.pc + 4#32, itstate := itAdvance s.itstate, freeIndex := s.freeIndex + 1 }
        ∨ exec i s = exec i { s with itstate := 0#8 })

/-- The nine T32 rows that stop when their condition passes (undefinedT1Align, undefinedT1Size, undefinedT2Size,
unpredictableT1BasePC, unpredictableT2BasePC, unpredictableT1SingleD31, unpredictableT1DoubleD30, unpredictableT2D30,
unpredictableT2D29), and the T32 loads where Advanced SIMD is not enabled, complete as the no-op of rule R111 where their
condition fails and the state's choice for this occasion is the no-op (decision D23; notes/assumptions/7.md). -/
def Obligations.StoppingT32WordsCompleteWhereTheirConditionFails : Prop :=
  ∀ (i : Instr) (s : State), i.wf = true → i.iset = .t32 → s.iset = .t32 → s.conditionPassed = false →
    (kindOf i ≠ .load ∨ s.simdAccess ≠ .enabled) → s.condFailChoices[s.freeIndex]? = some false →
    exec i s = .next { s with pc := s.pc + 4#32, itstate := itAdvance s.itstate, freeIndex := s.freeIndex + 1 }

/-- The same words where the state's choice is to stop (decision D23; notes/assumptions/7.md): the outcome is the one that the
word has outside the IT block, and it is no next state. That it is the same one of decode stop and enable stop is the model's choice
(notes/assumptions/8.md). -/
def Obligations.StoppingT32WordsStopWhereTheChoiceSaysSo : Prop :=
  ∀ (i : Instr) (s : State), i.wf = true → i.iset = .t32 → s.iset = .t32 → s.conditionPassed = false →
    (kindOf i ≠ .load ∨ s.simdAccess ≠ .enabled) → s.condFailChoices[s.freeIndex]? = some true →
    exec i s = exec i { s with itstate := 0#8 } ∧ ∀ t, exec i s ≠ .next t

/-- The six UNDEFINED rows (undefinedA1Align, undefinedA1Size, undefinedA2Size and their T1 and T2 counterparts) stop, whatever
the registers hold. -/
def Obligations.UndefinedWordsRaiseUndefined : Prop :=
  ∀ (i : Instr) (s : State), i.wf = true → kindOf i = .undefined → s.iset = i.iset → s.conditionPassed = true →
    s.simdAccess ≠ .hypTrap → exec i s = .fault .undefined

/-- The twelve UNPREDICTABLE rows (unpredictableA1BasePC, A2BasePC, A1SingleD31, A1DoubleD30, A2D30, A2D29 and their T1 and T2
counterparts) stop, whatever the registers hold. -/
def Obligations.UnpredictableWordsAreRefused : Prop :=
  ∀ (i : Instr) (s : State), i.wf = true → kindOf i = .unpredictable → s.iset = i.iset → s.conditionPassed = true →
    s.simdAccess = .enabled →
    (i.fields.n.val = 15 ∧ exec i s = .refused (.unpredictable .baseIsPC))
    ∨ ((∃ k ∈ listed i.fields.shape i.fields.d.val, 31 < k) ∧ exec i s = .refused (.unpredictable .listPastD31))

/-- Decision D25: a claim must hold whichever is reported, and which one is a free choice (notes/assumptions/8.md). -/
def Obligations.DecodeStopAndEnableStopAreBothAdmitted : Prop :=
  ∀ (i : Instr) (s : State), i.wf = true → s.iset = i.iset → s.conditionPassed = true →
    (kindOf i = .undefined → s.simdAccess = .hypTrap → exec i s = .fault .undefined ∨ exec i s = .fault .hypTrap)
    ∧ (kindOf i = .unpredictable → s.simdAccess = .hypTrap →
        (∃ reason, exec i s = .refused (.unpredictable reason)) ∨ exec i s = .fault .hypTrap)
    ∧ (kindOf i = .unpredictable → s.simdAccess = .undefined →
        (∃ reason, exec i s = .refused (.unpredictable reason)) ∨ exec i s = .fault .undefined)

/-- The enable check of the eighteen loads comes before the address is used. That it also comes before the refusal of a footprint that
touches a device is the model's reading (notes/assumptions/5.md, DEDUCED). -/
def Obligations.EnableCheckStopsEveryLoad : Prop :=
  ∀ (i : Instr) (s : State), i.wf = true → kindOf i = .load → s.iset = i.iset → s.conditionPassed = true →
    (s.simdAccess = .undefined → exec i s = .fault .undefined)
    ∧ (s.simdAccess = .hypTrap → exec i s = .fault .hypTrap)

/-- The alignment check of the eighteen loads (the spec's reading of the source's helper, decision D5). That it comes before the refusal
of a footprint that touches a device is the model's reading (notes/assumptions/5.md, DEDUCED). -/
def Obligations.MisalignedBaseFaultsBeforeAnyAccess : Prop :=
  ∀ (i : Instr) (s : State) (n : Fin Config.numR), i.wf = true → kindOf i = .load → i.fields.n = regField n →
    s.iset = i.iset → s.conditionPassed = true → s.simdAccess = .enabled →
    (s.readR n).toNat % alignmentBytes i.fields.align ≠ 0 → exec i s = .fault (.alignmentFault (s.readR n))

/-- Strict alignment of the element accesses (decision D4): the first read faults. That it raises AlignmentFault also where
memory does not hold the element is the model's choice (notes/assumptions/22.md). -/
def Obligations.StrictAlignmentFaultsOnTheElementSize : Prop :=
  ∀ (i : Instr) (s : State) (n : Fin Config.numR), i.wf = true → kindOf i = .load → i.fields.n = regField n →
    s.iset = i.iset → s.conditionPassed = true → s.simdAccess = .enabled →
    ∀ ebytes, elementBytes i.fields.size = some ebytes →
    (s.readR n).toNat % alignmentBytes i.fields.align = 0 →
    (s.readR n).toNat + 16 * pairCount i.fields.shape ≤ Config.addressSpace →
    s.touchesDevice (s.readR n).toNat (16 * pairCount i.fields.shape) = false →
    s.strictAlign = true → (s.readR n).toNat % ebytes ≠ 0 →
    exec i s = .fault (.alignmentFault (s.readR n))

/-- The spec's own refusal (decision D2), between the alignment check and the first read. That it is the refusal given also where the
footprint touches a device is the model's reading (notes/assumptions/5.md, DEDUCED). -/
def Obligations.FootprintPastTheTopIsRefused : Prop :=
  ∀ (i : Instr) (s : State) (n : Fin Config.numR), i.wf = true → kindOf i = .load → i.fields.n = regField n →
    s.iset = i.iset → s.conditionPassed = true → s.simdAccess = .enabled →
    (s.readR n).toNat % alignmentBytes i.fields.align = 0 →
    2 ^ 32 < (s.readR n).toNat + 16 * pairCount i.fields.shape → exec i s = .refused .addressWrap

/-- A footprint that touches a device region (decision D13); the place of the check is the model's (notes/assumptions/5.md). -/
def Obligations.DeviceFootprintIsRefused : Prop :=
  ∀ (i : Instr) (s : State) (n : Fin Config.numR), i.wf = true → kindOf i = .load → i.fields.n = regField n →
    s.iset = i.iset → s.conditionPassed = true → s.simdAccess = .enabled →
    (s.readR n).toNat % alignmentBytes i.fields.align = 0 →
    (s.readR n).toNat + 16 * pairCount i.fields.shape ≤ 2 ^ 32 →
    ∀ r ∈ s.devices, ∀ a, r.base ≤ a → a < r.base + r.size →
      (s.readR n).toNat ≤ a → a < (s.readR n).toNat + 16 * pairCount i.fields.shape →
      exec i s = .refused (.unmodelled .deviceMemory)

/-- The abort of an element read (decision D11) with the faulted state that it leaves (rule R136). That the element reported is
the first in the order of the pseudocode's loop is the model's choice (notes/assumptions/14.md; decision D12 admits any
order). -/
def Obligations.FirstUnreadableElementAborts : Prop :=
  ∀ (i : Instr) (s : State) (n : Fin Config.numR), i.wf = true → kindOf i = .load → i.fields.n = regField n →
    s.iset = i.iset → s.conditionPassed = true → s.simdAccess = .enabled →
    ∀ ebytes, elementBytes i.fields.size = some ebytes →
    (s.readR n).toNat % alignmentBytes i.fields.align = 0 →
    (s.readR n).toNat + 16 * pairCount i.fields.shape ≤ Config.addressSpace →
    s.touchesDevice (s.readR n).toNat (16 * pairCount i.fields.shape) = false →
    (s.strictAlign = true → (s.readR n).toNat % ebytes = 0) →
    ¬ s.readable (s.readR n).toNat (16 * pairCount i.fields.shape) →
    ∃ k t, ebytes * k < 16 * pairCount i.fields.shape
      ∧ exec i s = .fault (.dataAbort (s.readR n + BitVec.ofNat 32 (ebytes * k)) t)
      ∧ Aborted s t i.fields.shape i.fields.d.val
      ∧ ¬ s.readable ((s.readR n).toNat + ebytes * k) ebytes
      ∧ ∀ j < k, s.readable ((s.readR n).toNat + ebytes * j) ebytes

/-- The faulted state of a DataAbort (rule R136, decision D11), for every instruction and operands: the listed D registers are
unspecified, so nothing is said of them (notes/assumptions/23.md), and everything else is unchanged, the base register and the
program counter among it. -/
def Obligations.DataAbortLeavesAllButTheListedRegisters : Prop :=
  ∀ (i : Instr) (s t : State) (a : Word), exec i s = .fault (.dataAbort a t) →
    Aborted s t i.fields.shape i.fields.d.val

/-- The instruction is restartable (rule R141's inference): executed again from the faulted state once memory holds what it
lacked, it ends as it would have ended from the state before, whatever the listed D registers held. Only the model's own
counter of free choices tells the two apart (notes/assumptions/23.md). -/
def Obligations.AbortedLoadIsRestartable : Prop :=
  ∀ (i : Instr) (s t u : State) (a : Word) (m : Memory), exec i s = .fault (.dataAbort a t) →
    exec i { s with mem := m } = .next u →
    exec i { t with mem := m } = .next { u with freeIndex := u.freeIndex + 1 }

/-- Two memories that agree on the footprint cannot be told apart by an instruction, whatever its outcome; a word with base register
15 reads no memory (UnpredictableWordsAreRefused). That the two runs agree also in what the spec leaves open is the model's choice:
the same one of decode stop and enable stop is reported (notes/assumptions/8.md), as is the same choice where the condition fails
(notes/assumptions/7.md), an abort reports the same element (notes/assumptions/14.md) and leaves the same free values in the listed D
registers (notes/assumptions/23.md). -/
def Obligations.LoadDependsOnlyOnItsFootprint : Prop :=
  ∀ (i : Instr) (s : State) (m : Memory) (n : Fin Config.numR), i.fields.n = regField n →
    (∀ a, (s.readR n).toNat ≤ a → a < (s.readR n).toNat + 16 * pairCount i.fields.shape →
      m.readByte a = s.mem.readByte a) →
    exec i { s with mem := m } = mapOutcome (fun t => { t with mem := m }) (fun t => { t with mem := m }) (exec i s)

/-- The frame that every instruction of the table shares, whatever its operands. -/
def Obligations.EveryInstructionKeepsTheContext : Prop :=
  ∀ (i : Instr) (s t : State), exec i s = .next t →
    SameContext s t ∧ t.simdAccess = s.simdAccess ∧ t.pc = s.pc + 4#32 ∧ t.itstate = s.nextIT
    ∧ (t.freeIndex = s.freeIndex ∨ t.freeIndex = s.freeIndex + 1)

/-- The register frame of every instruction of the table, whatever its operands. -/
def Obligations.OnlyListedAndBaseRegistersChange : Prop :=
  ∀ (i : Instr) (s t : State), i.wf = true → exec i s = .next t →
    (∀ k < 32, k ∉ listed i.fields.shape i.fields.d.val → t.readD k = s.readD k)
    ∧ (∀ k : Fin Config.numR, k.val ≠ i.fields.n.val → t.readR k = s.readR k)
    ∧ (kindOf i ≠ .load ∨ s.conditionPassed = false → t.gpr = s.gpr ∧ t.dreg = s.dreg)

/-- Rule R71: the effect on the base register, for every value of the Rm field. -/
def Obligations.WriteBackFollowsTheRmField : Prop :=
  ∀ (i : Instr) (s t : State) (n : Fin Config.numR), i.wf = true → kindOf i = .load → i.fields.n = regField n →
    s.conditionPassed = true → exec i s = .next t →
    (i.fields.m.val = 15 → t.readR n = s.readR n)
    ∧ (i.fields.m.val = 13 → t.readR n = s.readR n + BitVec.ofNat 32 (16 * pairCount i.fields.shape))
    ∧ (∀ m : Fin Config.numR, m.val ≠ 13 → i.fields.m = regField m → t.readR n = s.readR n + s.readR m)

/-- The register image, byte by byte, against the lists of offsets that the spec derives in 20_memory.md section 2. -/
def Obligations.RegisterImageFollowsSizeAndByteOrder : Prop :=
  ∀ (s : State) (size : SizeField) (ebytes : Nat) (d : DReg) (n : Fin Config.numR),
    elementBytes size = some ebytes → d.val ≤ 30 → s.iset = .a32 → LoadReady s n 1 ebytes 16 →
    ∃ t, exec (.vld2A1SingleOffset size .omitted d (regField n)) s = .next t
      ∧ (s.bigEndian = false → BytesFrom s (t.readD d.val) (s.readR n).toNat (firstByteOffsets size)
          ∧ BytesFrom s (t.readD (d.val + 1)) ((s.readR n).toNat + ebytes) (firstByteOffsets size))
      ∧ (s.bigEndian = true → BytesFrom s (t.readD d.val) (s.readR n).toNat (firstByteOffsetsBig size)
          ∧ BytesFrom s (t.readD (d.val + 1)) ((s.readR n).toNat + ebytes) (firstByteOffsetsBig size))

/-- Repetition of the form without write-back (an inference that the spec draws in 40_vld2_multiple.md section 5). -/
def Obligations.RepeatedLoadWithoutWriteBackLoadsTheSame : Prop :=
  ∀ (i : Instr) (s t u : State), i.fields.m.val = 15 → s.conditionPassed = true →
    exec i s = .next t → exec i t = .next u → u.dreg = t.dreg

/-- The qualifier constrains the starting address and nothing else (40_vld2_multiple.md section 5). -/
def Obligations.AlignQualifierHasNoOtherEffect : Prop :=
  ∀ (f : Fields) (s t : State), s.conditionPassed = true → exec (classify f) s = .next t →
    exec (classify { f with align := .omitted }) s = .next t

/-- The last 16 bytes of the address space can be loaded, and the write-back wraps (decision D2). That AddressWrap is the refusal given
also where the footprint touches a device is the model's reading (notes/assumptions/5.md, DEDUCED). -/
def Obligations.WriteBackWrapsAtTheTopOfMemory : Prop :=
  ∀ (s : State) (n : Fin Config.numR), s.iset = .a32 → s.simdAccess = .enabled →
    (s.readR n = 0xFFFFFFF0#32 → LoadReady s n 1 1 16 →
      ∃ t, exec (.vld2A1SinglePost .b8 .omitted 0 (regField n)) s = .next t ∧ t.readR n = 0)
    ∧ (s.readR n = 0xFFFFFFF8#32 →
      exec (.vld2A1SinglePost .b8 .omitted 0 (regField n)) s = .refused .addressWrap)

/-- A step fetches at the program counter and executes; it adds nothing around `exec`, which moves past the instruction. -/
def Obligations.StepExecutesTheDecodedInstruction : Prop :=
  ∀ (s : State) (bytes : List Byte) (i : Instr) (rest : List Byte),
    s.pc.toNat % fetchAlignment s.iset = 0 → s.pc.toNat + 4 ≤ 2 ^ 32 →
    s.text.readBytes s.pc.toNat 4 = some bytes → decode s.iset bytes = .ok (i, rest) → step s = exec i s

/-- The fetch's own refusals. The spec states the first and the third clause (decisions D18, D22); that the first holds also where
the program text holds no byte at the program counter, and that such a state is not final, is read from rules R46, R163 and R189
(notes/assumptions/24.md, DEDUCED). The others are the model's: that a program that has ended, or that ends inside an instruction, is refused as noInstruction is the model's reading
(notes/assumptions/16.md, DEDUCED), as is the refusal of a lone T32 halfword, and that a T32 instruction whose second halfword
would have no address is refused as fetchWrap is its choice (notes/assumptions/11.md, DESIGN CHOICE). -/
def Obligations.StepRefusesWhatItCannotFetch : Prop :=
  ∀ s : State,
    (s.pc.toNat % fetchAlignment s.iset ≠ 0 → step s = .refused (.unmodelled .misalignedPC) ∧ s.final = false)
    ∧ (s.pc.toNat % fetchAlignment s.iset = 0 → s.final = true → step s = .refused .noInstruction)
    ∧ (∀ bytes, s.pc.toNat % fetchAlignment s.iset = 0 → s.pc.toNat + 4 ≤ 2 ^ 32 →
        s.text.readBytes s.pc.toNat 4 = some bytes → decode s.iset bytes = .error .notThisInstruction →
        step s = .refused .notThisInstruction)
    ∧ (∀ k < 4, s.iset = .a32 → s.pc.toNat % 4 = 0 → s.text.readByte (s.pc.toNat + k) = none →
        step s = .refused .noInstruction)
    ∧ (∀ k < 2, s.iset = .t32 → s.pc.toNat % 2 = 0 → s.text.readByte (s.pc.toNat + k) = none →
        step s = .refused .noInstruction)
    ∧ (∀ lower upper, s.iset = .t32 → s.pc.toNat % 2 = 0 → s.text.readByte s.pc.toNat = some lower →
        s.text.readByte (s.pc.toNat + 1) = some upper →
        (t32Wide upper = false → step s = .refused .notThisInstruction)
        ∧ (t32Wide upper = true → s.pc.toNat + 4 ≤ 2 ^ 32 →
            (s.text.readByte (s.pc.toNat + 2) = none ∨ s.text.readByte (s.pc.toNat + 3) = none) →
            step s = .refused .noInstruction)
        ∧ (t32Wide upper = true → s.pc = 0xFFFFFFFE#32 → step s = .refused (.unmodelled .fetchWrap)))

/-- The interface that places a word (notes/assumptions/10.md): the bytes written are the bytes fetched. -/
def Obligations.PlacedTableWordIsTheNextInstruction : Prop :=
  ∀ (s : State) (w : Nat) (i : Instr), decodeTableWord 32 w = some i →
    step (s.withFetchWord 32 w) = exec i (s.withFetchWord 32 w)

/-- The condition table, condition by condition, and where the condition stands (general knowledge in the spec,
notes/assumptions/12.md): in ITSTATE[7:4] inside an IT block; A32, and T32 outside an IT block, always pass. -/
def Obligations.ConditionTableReadsTheFlags : Prop :=
  (∀ n z c v : Bool,
    conditionHolds 0b0000#4 n z c v = z ∧ conditionHolds 0b0001#4 n z c v = !z
    ∧ conditionHolds 0b0010#4 n z c v = c ∧ conditionHolds 0b0011#4 n z c v = !c
    ∧ conditionHolds 0b0100#4 n z c v = n ∧ conditionHolds 0b0101#4 n z c v = !n
    ∧ conditionHolds 0b0110#4 n z c v = v ∧ conditionHolds 0b0111#4 n z c v = !v
    ∧ conditionHolds 0b1000#4 n z c v = (c && !z) ∧ conditionHolds 0b1001#4 n z c v = !(c && !z)
    ∧ conditionHolds 0b1010#4 n z c v = (n == v) ∧ conditionHolds 0b1011#4 n z c v = !(n == v)
    ∧ conditionHolds 0b1100#4 n z c v = (n == v && !z) ∧ conditionHolds 0b1101#4 n z c v = !(n == v && !z)
    ∧ conditionHolds 0b1110#4 n z c v = true ∧ conditionHolds 0b1111#4 n z c v = true)
  ∧ (∀ s : State,
    (s.iset = .a32 → s.conditionPassed = true)
    ∧ (s.iset = .t32 → s.itstate.extractLsb' 0 4 = 0#4 → s.conditionPassed = true)
    ∧ (s.iset = .t32 → s.itstate.extractLsb' 0 4 ≠ 0#4 →
        s.conditionPassed = conditionHolds (s.itstate.extractLsb' 4 4) s.flagN s.flagZ s.flagC s.flagV))

/-- The If-Then state's advance, bit by bit (general knowledge in the spec, notes/assumptions/12.md). -/
def Obligations.ITStateAdvanceShiftsTheMask : Prop :=
  ∀ it : BitVec 8,
    (it.extractLsb' 0 3 = 0#3 → itAdvance it = 0#8)
    ∧ (it.extractLsb' 0 3 ≠ 0#3 → (itAdvance it).extractLsb' 5 3 = it.extractLsb' 5 3
        ∧ (itAdvance it).extractLsb' 1 4 = it.extractLsb' 0 4 ∧ (itAdvance it).getLsbD 0 = false)

/-- Rule R69: the table of the size field. -/
def Obligations.SizeFieldGivesElementBytes : Prop :=
  (∀ b : BitVec 2, b ≠ 0b11#2 → elementBytes (SizeField.ofBits b) = some (2 ^ b.toNat))
  ∧ (∀ (f : Fields) (p : LoadOperands), decodeOperands f = .ok p →
      (f.size = .b8 ∧ p.ebytes = 1 ∧ p.elements = 8) ∨ (f.size = .b16 ∧ p.ebytes = 2 ∧ p.elements = 4)
      ∨ (f.size = .b32 ∧ p.ebytes = 4 ∧ p.elements = 2))
  ∧ (∀ f : Fields, f.size = SizeField.ofBits 0b11#2 → decodeOperands f = .error (.fault .undefined))

/-- Rule R70: the table of the align field. -/
def Obligations.AlignFieldGivesAlignmentBytes : Prop :=
  (∀ b : BitVec 2, alignmentBytes (AlignField.ofBits b) = if b = 0b00#2 then 1 else 4 * 2 ^ b.toNat)
  ∧ (∀ (f : Fields) (p : LoadOperands), decodeOperands f = .ok p → p.alignment = alignmentBytes f.align)
  ∧ (∀ f : Fields, f.size ≠ .reserved →
      (decodeOperands f = .error (.fault .undefined) ↔ f.shape ≠ .four ∧ f.align = AlignField.ofBits 0b11#2))

/-- Rule R74: which words of the four patterns are UNDEFINED. -/
def Obligations.UndefinedWordsAreExactlyThese : Prop :=
  ∀ (iset : ISet) (w : BitVec 32) (i : Instr), decodeWord iset w = some i →
    (kindOf i = .undefined ↔
      w.extractLsb' 6 2 = 0b11#2
      ∨ (w.extractLsb' 4 2 = 0b11#2 ∧ (w.extractLsb' 8 4 = 0b1000#4 ∨ w.extractLsb' 8 4 = 0b1001#4)))

/-- Which words of the four patterns are UNPREDICTABLE (the spec's own expansion of the test, 30_encoding.md section 4). -/
def Obligations.UnpredictableWordsAreExactlyThese : Prop :=
  ∀ (iset : ISet) (w : BitVec 32) (i : Instr), decodeWord iset w = some i → kindOf i ≠ .undefined →
    (kindOf i = .unpredictable ↔
      w.extractLsb' 16 4 = 0b1111#4
      ∨ (w.extractLsb' 8 4 = 0b1000#4 ∧ 16 * (w.extractLsb' 22 1).toNat + (w.extractLsb' 12 4).toNat = 31)
      ∨ (w.extractLsb' 8 4 = 0b1001#4 ∧ 30 ≤ 16 * (w.extractLsb' 22 1).toNat + (w.extractLsb' 12 4).toNat)
      ∨ (w.extractLsb' 8 4 = 0b0011#4 ∧ 29 ≤ 16 * (w.extractLsb' 22 1).toNat + (w.extractLsb' 12 4).toNat))

/-- The assembler forms and the instructions they name. -/
def Obligations.DisassembledLoadAssemblesBack : Prop :=
  ∀ i : Instr, i.wf = true →
    (kindOf i = .load → ∃ l, disassemble i = some l ∧ assemble l = some i)
    ∧ (kindOf i ≠ .load → disassemble i = none)

/-- What an assembler must reject (the spec's own list, 30_encoding.md section 5). -/
def Obligations.AssemblerRejectsWhatItMust : Prop :=
  ∀ (l : AsmLine) (i : Instr), assemble l = some i →
    kindOf i = .load ∧ i.wf = true ∧ i.iset = l.iset
    ∧ (l.size = 8 ∨ l.size = 16 ∨ l.size = 32)
    ∧ (l.align = none ∨ l.align = some 64 ∨ l.align = some 128 ∨ (l.align = some 256 ∧ l.list.length = 4))
    ∧ l.n.val ≠ 15 ∧ (∀ k ∈ l.list, k ≤ 31)
    ∧ (∀ m, l.form = .index m → m.val ≠ 13 ∧ m.val ≠ 15)
    ∧ (l.iset = .a32 → l.condition = none ∨ l.condition = some .al)

/-- The other views of the SIMD&FP registers (general knowledge in the spec, notes/assumptions/13.md). -/
def Obligations.WideAndNarrowViewsShareTheDRegisters : Prop :=
  ∀ (s : State) (i : Fin 16),
    (s.readQ i).extractLsb' 0 64 = s.readD (2 * i.val) ∧ (s.readQ i).extractLsb' 64 64 = s.readD (2 * i.val + 1)
    ∧ s.readS ⟨2 * i.val, by omega⟩ = (s.readD i.val).extractLsb' 0 32
    ∧ s.readS ⟨2 * i.val + 1, by omega⟩ = (s.readD i.val).extractLsb' 32 32

/-- The two instruction sets' words never mix. The first clause, what `exec` does with an instruction of the other set, is the
model's reading (notes/assumptions/9.md, DEDUCED; a step never does this); the second is the spec's (rules R25, R73). -/
def Obligations.InstructionOfTheOtherSetIsRefused : Prop :=
  (∀ (i : Instr) (s : State), s.iset ≠ i.iset → exec i s = .refused .notThisInstruction)
  ∧ (∀ w : BitVec 32, decodeWord .a32 w = none ∨ decodeWord .t32 w = none)

/-- The outcomes of the eighteen loads: an admitted load is never refused as UNPREDICTABLE or as not modelled. -/
def Obligations.LoadsStopOnlyForListedReasons : Prop :=
  ∀ (i : Instr) (s : State), i.wf = true → kindOf i = .load → s.iset = i.iset →
    (∃ t, exec i s = .next t)
    ∨ (exec i s = .fault .undefined ∧ s.simdAccess = .undefined)
    ∨ (exec i s = .fault .hypTrap ∧ s.simdAccess = .hypTrap)
    ∨ (∃ a, exec i s = .fault (.alignmentFault a)) ∨ (∃ a t, exec i s = .fault (.dataAbort a t))
    ∨ exec i s = .refused .addressWrap ∨ exec i s = .refused (.unmodelled .deviceMemory)
end

