-- ==== Sys2Proof/Laws/Decode.lean ====
section
/-! SUPPORT. The bits of an encoded word, and the layout of its bytes. -/

namespace Sys2Proof

/-- The fields of a word put together from its fields, by their bit positions (rules R61 to R64). -/
theorem fields_of_append (p : BitVec 9) (D : BitVec 1) (l : BitVec 2) (n vd it : BitVec 4) (sz al : BitVec 2)
    (m : BitVec 4) :
    (p ++ D ++ l ++ n ++ vd ++ it ++ sz ++ al ++ m).extractLsb' 23 9 = p
    ∧ (p ++ D ++ l ++ n ++ vd ++ it ++ sz ++ al ++ m).extractLsb' 22 1 = D
    ∧ (p ++ D ++ l ++ n ++ vd ++ it ++ sz ++ al ++ m).extractLsb' 20 2 = l
    ∧ (p ++ D ++ l ++ n ++ vd ++ it ++ sz ++ al ++ m).extractLsb' 16 4 = n
    ∧ (p ++ D ++ l ++ n ++ vd ++ it ++ sz ++ al ++ m).extractLsb' 12 4 = vd
    ∧ (p ++ D ++ l ++ n ++ vd ++ it ++ sz ++ al ++ m).extractLsb' 8 4 = it
    ∧ (p ++ D ++ l ++ n ++ vd ++ it ++ sz ++ al ++ m).extractLsb' 6 2 = sz
    ∧ (p ++ D ++ l ++ n ++ vd ++ it ++ sz ++ al ++ m).extractLsb' 4 2 = al
    ∧ (p ++ D ++ l ++ n ++ vd ++ it ++ sz ++ al ++ m).extractLsb' 0 4 = m := by
  refine ⟨?_, ?_, ?_, ?_, ?_, ?_, ?_, ?_, ?_⟩ <;>
  · apply BitVec.eq_of_getLsbD_eq
    intro i hi
    simp only [BitVec.getLsbD_extractLsb', BitVec.getLsbD_append]
    interval_cases i <;> simp

/-- The bytes of a word, put together again, are the word (rule R43). -/
theorem decode_bytesOfWord (iset : ISet) (w : BitVec 32) (rest : List Byte) :
    decode iset (bytesOfWord iset w ++ rest) =
      match decodeWord iset w with
      | some i => .ok (i, rest)
      | none => .error .notThisInstruction := by
  have h : ∀ b0 b1 b2 b3, bytesOfWord iset w = [b0, b1, b2, b3] → wordOfBytes iset b0 b1 b2 b3 = w := by
    intro b0 b1 b2 b3 hb
    cases iset <;> simp only [bytesOfWord, List.cons.injEq, and_true] at hb <;> obtain ⟨rfl, rfl, rfl, rfl⟩ := hb <;>
    · apply BitVec.eq_of_getLsbD_eq
      intro i hi
      simp only [wordOfBytes, BitVec.getLsbD_extractLsb', BitVec.getLsbD_append]
      interval_cases i <;> simp
  cases iset <;> simp only [bytesOfWord, List.cons_append, List.nil_append, decode] <;> rw [h _ _ _ _ rfl] <;>
    cases decodeWord _ w <;> rfl

/-- The instruction set of an encoded word (rules R61 to R64). -/
theorem isetOfWord_encodeFields (f : Fields) : isetOfWord (encodeFields f) = some f.iset := by
  have h := (fields_of_append f.iset.prefixBits ((BitVec.ofFin (w := 5) f.d).extractLsb' 4 1) 0b10#2
    (BitVec.ofFin (w := 4) f.n) ((BitVec.ofFin (w := 5) f.d).extractLsb' 0 4) f.shape.bits f.size.bits f.align.bits
    (BitVec.ofFin (w := 4) f.m)).1
  unfold isetOfWord encodeFields
  rw [h]
  cases f.iset <;> decide

end Sys2Proof
end

