-- ==== Sys2Proof/Laws/Memory.lean ====
section
/-! SUPPORT. Byte memory: a read after a write, and that every memory operation keeps the canonical form. -/

namespace Sys2Proof.Machine

@[simp] theorem Memory.readByte_nil (a : Nat) : Memory.readByte [] a = none := rfl

theorem Memory.readByte_cons (k : Nat) (b : Byte) (m : Memory) (a : Nat) :
    Memory.readByte ((k, b) :: m) a = if k = a then some b else Memory.readByte m a := rfl

/-! ### The canonical form, as a proposition -/

/-- `rising low m`, entry by entry. -/
theorem Memory.rising_cons (low k : Nat) (b : Byte) (m : Memory) :
    Memory.rising low ((k, b) :: m) = true ↔ low < k ∧ Memory.rising k m = true := by
  simp [Memory.rising]

theorem Memory.rising_mono {low low' : Nat} (h : low' ≤ low) :
    ∀ {m : Memory}, Memory.rising low m = true → Memory.rising low' m = true
  | [], _ => rfl
  | (k, b) :: m, hm => by
    rw [Memory.rising_cons] at hm ⊢
    exact ⟨by omega, hm.2⟩

/-- Below the first address of a rising memory there is no byte. -/
theorem Memory.readByte_of_le {low a : Nat} (ha : a ≤ low) :
    ∀ {m : Memory}, Memory.rising low m = true → m.readByte a = none
  | [], _ => rfl
  | (k, b) :: m, hm => by
    rw [Memory.rising_cons] at hm
    rw [Memory.readByte_cons, if_neg (by omega)]
    exact Memory.readByte_of_le (by omega) hm.2

theorem Memory.rising_writeByte {low a : Nat} (x : Byte) (ha : low < a) :
    ∀ {m : Memory}, Memory.rising low m = true → Memory.rising low (m.writeByte a x) = true
  | [], _ => by simp [Memory.writeByte, Memory.rising, ha]
  | (k, b) :: m, hm => by
    rw [Memory.rising_cons] at hm
    unfold Memory.writeByte
    split
    · next h => simp [Memory.rising_cons, ha, h, hm.2]
    · split
      · next h => subst h; simp [Memory.rising_cons, hm]
      · next h h' =>
        rw [Memory.rising_cons]
        exact ⟨hm.1, Memory.rising_writeByte x (by omega) hm.2⟩

/-- The bound on the addresses. -/
theorem Memory.all_writeByte {a : Nat} (x : Byte) (ha : a < Config.addressSpace) :
    ∀ {m : Memory}, (m.all fun c => decide (c.1 < Config.addressSpace)) = true →
      ((m.writeByte a x).all fun c => decide (c.1 < Config.addressSpace)) = true
  | [], _ => by simpa [Memory.writeByte] using ha
  | (k, b) :: m, hm => by
    simp only [List.all_cons, Bool.and_eq_true, decide_eq_true_eq] at hm
    have ih := Memory.all_writeByte x ha hm.2
    unfold Memory.writeByte
    split
    · simp only [List.all_cons, Bool.and_eq_true, decide_eq_true_eq]; exact ⟨ha, hm.1, hm.2⟩
    · split
      · simp only [List.all_cons, Bool.and_eq_true, decide_eq_true_eq]; exact ⟨ha, hm.2⟩
      · simp only [List.all_cons, Bool.and_eq_true, decide_eq_true_eq]; exact ⟨hm.1, ih⟩

/-- A write inside the address space keeps the canonical form. -/
theorem Memory.wf_writeByte {m : Memory} {a : Nat} (x : Byte) (ha : a < Config.addressSpace) (hm : m.wf = true) :
    (m.writeByte a x).wf = true := by
  have hall := (Bool.and_eq_true _ _ ▸ hm : _ ∧ _).2
  unfold Memory.wf
  rw [Bool.and_eq_true]
  refine ⟨?_, Memory.all_writeByte x ha hall⟩
  match m with
  | [] => rfl
  | (k, b) :: m =>
    have hr : Memory.rising k m = true := (Bool.and_eq_true _ _ ▸ hm : _ ∧ _).1
    unfold Memory.writeByte
    by_cases h : a < k
    · simp [h, Memory.rising_cons, hr]
    · by_cases h' : a = k
      · subst h'; simpa using hr
      · simpa [h, h'] using Memory.rising_writeByte x (by omega) hr

/-- Writing several bytes inside the address space keeps the canonical form. -/
theorem Memory.wf_writeBytes : ∀ {m : Memory} {a : Nat} {xs : List Byte},
    a + xs.length ≤ Config.addressSpace → m.wf = true → (m.writeBytes a xs).wf = true
  | _, _, [], _, hm => hm
  | m, a, x :: xs, ha, hm => by
    simp only [List.length_cons] at ha
    exact Memory.wf_writeBytes (m := m.writeByte a x) (by omega) (Memory.wf_writeByte x (by omega) hm)

/-! ### A read after a write -/

/-- The byte written is the byte read, whatever the form of the memory. -/
theorem Memory.readByte_writeByte_same (a : Nat) (x : Byte) : ∀ m : Memory, (m.writeByte a x).readByte a = some x
  | [] => by simp [Memory.writeByte, Memory.readByte_cons]
  | (k, b) :: m => by
    unfold Memory.writeByte
    split
    · simp [Memory.readByte_cons]
    · split
      · simp [Memory.readByte_cons]
      · next h h' => rw [Memory.readByte_cons, if_neg (fun e => h' e.symm)]; exact Memory.readByte_writeByte_same a x m

/-- Every other byte reads as before, whatever the form of the memory. -/
theorem Memory.readByte_writeByte_other {a c : Nat} (x : Byte) (h : c ≠ a) :
    ∀ m : Memory, (m.writeByte a x).readByte c = m.readByte c
  | [] => by simp [Memory.writeByte, Memory.readByte_cons, Ne.symm h]
  | (k, b) :: m => by
    unfold Memory.writeByte
    split
    · simp [Memory.readByte_cons, Ne.symm h]
    · split
      · next h' => subst h'; simp [Memory.readByte_cons, Ne.symm h]
      · simp only [Memory.readByte_cons]; rw [Memory.readByte_writeByte_other x h m]

/-- Bytes below or above those written read as before. -/
theorem Memory.readByte_writeBytes_other {c : Nat} : ∀ {m : Memory} {a : Nat} {xs : List Byte},
    c < a ∨ a + xs.length ≤ c → (m.writeBytes a xs).readByte c = m.readByte c
  | _, _, [], _ => rfl
  | m, a, x :: xs, h => by
    simp only [List.length_cons] at h
    show ((m.writeByte a x).writeBytes (a + 1) xs).readByte c = _
    rw [Memory.readByte_writeBytes_other (by omega), Memory.readByte_writeByte_other x (by omega)]

/-- The bytes written are the bytes read. -/
theorem Memory.readUpTo_writeBytes : ∀ (m : Memory) (a : Nat) (xs : List Byte),
    (m.writeBytes a xs).readUpTo a xs.length = xs
  | _, _, [] => rfl
  | m, a, x :: xs => by
    have h : (m.writeBytes a (x :: xs)).readByte a = some x := by
      show ((m.writeByte a x).writeBytes (a + 1) xs).readByte a = _
      rw [Memory.readByte_writeBytes_other (by omega), Memory.readByte_writeByte_same]
    rw [List.length_cons, Memory.readUpTo, h]
    exact congrArg (x :: ·) (Memory.readUpTo_writeBytes (m.writeByte a x) (a + 1) xs)

/-! ### Reading several bytes -/

/-- All the bytes are read exactly when memory holds each of them. -/
theorem Memory.readBytes_isSome (m : Memory) : ∀ (a n : Nat),
    (m.readBytes a n).isSome = true ↔ ∀ c, a ≤ c → c < a + n → (m.readByte c).isSome = true
  | a, 0 => by simp only [Memory.readBytes, Option.isSome_some, true_iff]; intro c h h'; omega
  | a, n + 1 => by
    unfold Memory.readBytes
    cases hb : m.readByte a with
    | none =>
      simp only [Option.isSome_none, Bool.false_eq_true, false_iff]
      intro h
      have := h a (Nat.le_refl a) (by omega)
      rw [hb] at this
      exact absurd this (by simp)
    | some b =>
      simp only [Option.isSome_map, Memory.readBytes_isSome m (a + 1) n]
      constructor
      · intro h c h1 h2
        by_cases hc : c = a
        · subst hc; simp [hb]
        · exact h c (by omega) (by omega)
      · intro h c h1 h2
        exact h c (by omega) (by omega)

/-- What is read depends only on the bytes at the addresses read. -/
theorem Memory.readBytes_congr (m m' : Memory) : ∀ (a n : Nat),
    (∀ c, a ≤ c → c < a + n → m'.readByte c = m.readByte c) → m'.readBytes a n = m.readBytes a n
  | _, 0, _ => rfl
  | a, n + 1, h => by
    unfold Memory.readBytes
    rw [h a (Nat.le_refl a) (by omega), Memory.readBytes_congr m m' (a + 1) n fun c h1 h2 => h c (by omega) (by omega)]

end Sys2Proof.Machine
end

