-- ==== Sys2Proof/Laws/State.lean ====
section
/-! SUPPORT. What each named update does to each field of the state, one lemma each, for the simplifier. -/

namespace Sys2Proof.Machine

/-! ### State.writeR -/

@[simp] theorem State.writeR_iset (s : State) (n : Fin Config.numR) (v : Word) : (s.writeR n v).iset = s.iset := rfl

@[simp] theorem State.writeR_pc (s : State) (n : Fin Config.numR) (v : Word) : (s.writeR n v).pc = s.pc := rfl

@[simp] theorem State.writeR_gpr (s : State) (n : Fin Config.numR) (v : Word) : (s.writeR n v).gpr = s.gpr.set n v := rfl

@[simp] theorem State.writeR_dreg (s : State) (n : Fin Config.numR) (v : Word) : (s.writeR n v).dreg = s.dreg := rfl

@[simp] theorem State.writeR_flagN (s : State) (n : Fin Config.numR) (v : Word) : (s.writeR n v).flagN = s.flagN := rfl

@[simp] theorem State.writeR_flagZ (s : State) (n : Fin Config.numR) (v : Word) : (s.writeR n v).flagZ = s.flagZ := rfl

@[simp] theorem State.writeR_flagC (s : State) (n : Fin Config.numR) (v : Word) : (s.writeR n v).flagC = s.flagC := rfl

@[simp] theorem State.writeR_flagV (s : State) (n : Fin Config.numR) (v : Word) : (s.writeR n v).flagV = s.flagV := rfl

@[simp] theorem State.writeR_itstate (s : State) (n : Fin Config.numR) (v : Word) : (s.writeR n v).itstate = s.itstate := rfl

@[simp] theorem State.writeR_mem (s : State) (n : Fin Config.numR) (v : Word) : (s.writeR n v).mem = s.mem := rfl

@[simp] theorem State.writeR_text (s : State) (n : Fin Config.numR) (v : Word) : (s.writeR n v).text = s.text := rfl

@[simp] theorem State.writeR_devices (s : State) (n : Fin Config.numR) (v : Word) : (s.writeR n v).devices = s.devices := rfl

@[simp] theorem State.writeR_bigEndian (s : State) (n : Fin Config.numR) (v : Word) : (s.writeR n v).bigEndian = s.bigEndian := rfl

@[simp] theorem State.writeR_strictAlign (s : State) (n : Fin Config.numR) (v : Word) : (s.writeR n v).strictAlign = s.strictAlign := rfl

@[simp] theorem State.writeR_simdContext (s : State) (n : Fin Config.numR) (v : Word) : (s.writeR n v).simdContext = s.simdContext := rfl

@[simp] theorem State.writeR_simdRule (s : State) (n : Fin Config.numR) (v : Word) : (s.writeR n v).simdRule = s.simdRule := rfl

@[simp] theorem State.writeR_condFailChoices (s : State) (n : Fin Config.numR) (v : Word) : (s.writeR n v).condFailChoices = s.condFailChoices := rfl

@[simp] theorem State.writeR_freeIndex (s : State) (n : Fin Config.numR) (v : Word) : (s.writeR n v).freeIndex = s.freeIndex := rfl

/-! ### State.writeDRegs -/

@[simp] theorem State.writeDRegs_iset (s : State) (v : DRegs) : (s.writeDRegs v).iset = s.iset := rfl

@[simp] theorem State.writeDRegs_pc (s : State) (v : DRegs) : (s.writeDRegs v).pc = s.pc := rfl

@[simp] theorem State.writeDRegs_gpr (s : State) (v : DRegs) : (s.writeDRegs v).gpr = s.gpr := rfl

@[simp] theorem State.writeDRegs_dreg (s : State) (v : DRegs) : (s.writeDRegs v).dreg = v := rfl

@[simp] theorem State.writeDRegs_flagN (s : State) (v : DRegs) : (s.writeDRegs v).flagN = s.flagN := rfl

@[simp] theorem State.writeDRegs_flagZ (s : State) (v : DRegs) : (s.writeDRegs v).flagZ = s.flagZ := rfl

@[simp] theorem State.writeDRegs_flagC (s : State) (v : DRegs) : (s.writeDRegs v).flagC = s.flagC := rfl

@[simp] theorem State.writeDRegs_flagV (s : State) (v : DRegs) : (s.writeDRegs v).flagV = s.flagV := rfl

@[simp] theorem State.writeDRegs_itstate (s : State) (v : DRegs) : (s.writeDRegs v).itstate = s.itstate := rfl

@[simp] theorem State.writeDRegs_mem (s : State) (v : DRegs) : (s.writeDRegs v).mem = s.mem := rfl

@[simp] theorem State.writeDRegs_text (s : State) (v : DRegs) : (s.writeDRegs v).text = s.text := rfl

@[simp] theorem State.writeDRegs_devices (s : State) (v : DRegs) : (s.writeDRegs v).devices = s.devices := rfl

@[simp] theorem State.writeDRegs_bigEndian (s : State) (v : DRegs) : (s.writeDRegs v).bigEndian = s.bigEndian := rfl

@[simp] theorem State.writeDRegs_strictAlign (s : State) (v : DRegs) : (s.writeDRegs v).strictAlign = s.strictAlign := rfl

@[simp] theorem State.writeDRegs_simdContext (s : State) (v : DRegs) : (s.writeDRegs v).simdContext = s.simdContext := rfl

@[simp] theorem State.writeDRegs_simdRule (s : State) (v : DRegs) : (s.writeDRegs v).simdRule = s.simdRule := rfl

@[simp] theorem State.writeDRegs_condFailChoices (s : State) (v : DRegs) : (s.writeDRegs v).condFailChoices = s.condFailChoices := rfl

@[simp] theorem State.writeDRegs_freeIndex (s : State) (v : DRegs) : (s.writeDRegs v).freeIndex = s.freeIndex := rfl

/-! ### State.advancePC -/

@[simp] theorem State.advancePC_iset (s : State) : (s.advancePC).iset = s.iset := rfl

@[simp] theorem State.advancePC_pc (s : State) : (s.advancePC).pc = s.pc + 4#32 := rfl

@[simp] theorem State.advancePC_gpr (s : State) : (s.advancePC).gpr = s.gpr := rfl

@[simp] theorem State.advancePC_dreg (s : State) : (s.advancePC).dreg = s.dreg := rfl

@[simp] theorem State.advancePC_flagN (s : State) : (s.advancePC).flagN = s.flagN := rfl

@[simp] theorem State.advancePC_flagZ (s : State) : (s.advancePC).flagZ = s.flagZ := rfl

@[simp] theorem State.advancePC_flagC (s : State) : (s.advancePC).flagC = s.flagC := rfl

@[simp] theorem State.advancePC_flagV (s : State) : (s.advancePC).flagV = s.flagV := rfl

@[simp] theorem State.advancePC_itstate (s : State) : (s.advancePC).itstate = s.itstate := rfl

@[simp] theorem State.advancePC_mem (s : State) : (s.advancePC).mem = s.mem := rfl

@[simp] theorem State.advancePC_text (s : State) : (s.advancePC).text = s.text := rfl

@[simp] theorem State.advancePC_devices (s : State) : (s.advancePC).devices = s.devices := rfl

@[simp] theorem State.advancePC_bigEndian (s : State) : (s.advancePC).bigEndian = s.bigEndian := rfl

@[simp] theorem State.advancePC_strictAlign (s : State) : (s.advancePC).strictAlign = s.strictAlign := rfl

@[simp] theorem State.advancePC_simdContext (s : State) : (s.advancePC).simdContext = s.simdContext := rfl

@[simp] theorem State.advancePC_simdRule (s : State) : (s.advancePC).simdRule = s.simdRule := rfl

@[simp] theorem State.advancePC_condFailChoices (s : State) : (s.advancePC).condFailChoices = s.condFailChoices := rfl

@[simp] theorem State.advancePC_freeIndex (s : State) : (s.advancePC).freeIndex = s.freeIndex := rfl

/-! ### State.takeChoice -/

@[simp] theorem State.takeChoice_iset (s : State) : (s.takeChoice).iset = s.iset := rfl

@[simp] theorem State.takeChoice_pc (s : State) : (s.takeChoice).pc = s.pc := rfl

@[simp] theorem State.takeChoice_gpr (s : State) : (s.takeChoice).gpr = s.gpr := rfl

@[simp] theorem State.takeChoice_dreg (s : State) : (s.takeChoice).dreg = s.dreg := rfl

@[simp] theorem State.takeChoice_flagN (s : State) : (s.takeChoice).flagN = s.flagN := rfl

@[simp] theorem State.takeChoice_flagZ (s : State) : (s.takeChoice).flagZ = s.flagZ := rfl

@[simp] theorem State.takeChoice_flagC (s : State) : (s.takeChoice).flagC = s.flagC := rfl

@[simp] theorem State.takeChoice_flagV (s : State) : (s.takeChoice).flagV = s.flagV := rfl

@[simp] theorem State.takeChoice_itstate (s : State) : (s.takeChoice).itstate = s.itstate := rfl

@[simp] theorem State.takeChoice_mem (s : State) : (s.takeChoice).mem = s.mem := rfl

@[simp] theorem State.takeChoice_text (s : State) : (s.takeChoice).text = s.text := rfl

@[simp] theorem State.takeChoice_devices (s : State) : (s.takeChoice).devices = s.devices := rfl

@[simp] theorem State.takeChoice_bigEndian (s : State) : (s.takeChoice).bigEndian = s.bigEndian := rfl

@[simp] theorem State.takeChoice_strictAlign (s : State) : (s.takeChoice).strictAlign = s.strictAlign := rfl

@[simp] theorem State.takeChoice_simdContext (s : State) : (s.takeChoice).simdContext = s.simdContext := rfl

@[simp] theorem State.takeChoice_simdRule (s : State) : (s.takeChoice).simdRule = s.simdRule := rfl

@[simp] theorem State.takeChoice_condFailChoices (s : State) : (s.takeChoice).condFailChoices = s.condFailChoices := rfl

@[simp] theorem State.takeChoice_freeIndex (s : State) : (s.takeChoice).freeIndex = s.freeIndex + 1 := rfl

/-! ### State.advanceIT -/

@[simp] theorem State.advanceIT_iset (s : State) : (s.advanceIT).iset = s.iset := by
  unfold State.advanceIT; split <;> rfl

@[simp] theorem State.advanceIT_pc (s : State) : (s.advanceIT).pc = s.pc := by
  unfold State.advanceIT; split <;> rfl

@[simp] theorem State.advanceIT_gpr (s : State) : (s.advanceIT).gpr = s.gpr := by
  unfold State.advanceIT; split <;> rfl

@[simp] theorem State.advanceIT_dreg (s : State) : (s.advanceIT).dreg = s.dreg := by
  unfold State.advanceIT; split <;> rfl

@[simp] theorem State.advanceIT_flagN (s : State) : (s.advanceIT).flagN = s.flagN := by
  unfold State.advanceIT; split <;> rfl

@[simp] theorem State.advanceIT_flagZ (s : State) : (s.advanceIT).flagZ = s.flagZ := by
  unfold State.advanceIT; split <;> rfl

@[simp] theorem State.advanceIT_flagC (s : State) : (s.advanceIT).flagC = s.flagC := by
  unfold State.advanceIT; split <;> rfl

@[simp] theorem State.advanceIT_flagV (s : State) : (s.advanceIT).flagV = s.flagV := by
  unfold State.advanceIT; split <;> rfl

@[simp] theorem State.advanceIT_itstate (s : State) : (s.advanceIT).itstate = s.nextIT := by
  unfold State.advanceIT State.nextIT; split <;> simp [*]

@[simp] theorem State.advanceIT_mem (s : State) : (s.advanceIT).mem = s.mem := by
  unfold State.advanceIT; split <;> rfl

@[simp] theorem State.advanceIT_text (s : State) : (s.advanceIT).text = s.text := by
  unfold State.advanceIT; split <;> rfl

@[simp] theorem State.advanceIT_devices (s : State) : (s.advanceIT).devices = s.devices := by
  unfold State.advanceIT; split <;> rfl

@[simp] theorem State.advanceIT_bigEndian (s : State) : (s.advanceIT).bigEndian = s.bigEndian := by
  unfold State.advanceIT; split <;> rfl

@[simp] theorem State.advanceIT_strictAlign (s : State) : (s.advanceIT).strictAlign = s.strictAlign := by
  unfold State.advanceIT; split <;> rfl

@[simp] theorem State.advanceIT_simdContext (s : State) : (s.advanceIT).simdContext = s.simdContext := by
  unfold State.advanceIT; split <;> rfl

@[simp] theorem State.advanceIT_simdRule (s : State) : (s.advanceIT).simdRule = s.simdRule := by
  unfold State.advanceIT; split <;> rfl

@[simp] theorem State.advanceIT_condFailChoices (s : State) : (s.advanceIT).condFailChoices = s.condFailChoices := by
  unfold State.advanceIT; split <;> rfl

@[simp] theorem State.advanceIT_freeIndex (s : State) : (s.advanceIT).freeIndex = s.freeIndex := by
  unfold State.advanceIT; split <;> rfl

/-! ### State.finish -/

@[simp] theorem State.finish_iset (s : State) : (s.finish).iset = s.iset := by
  simp [State.finish]

@[simp] theorem State.finish_pc (s : State) : (s.finish).pc = s.pc + 4#32 := by
  simp [State.finish]

@[simp] theorem State.finish_gpr (s : State) : (s.finish).gpr = s.gpr := by
  simp [State.finish]

@[simp] theorem State.finish_dreg (s : State) : (s.finish).dreg = s.dreg := by
  simp [State.finish]

@[simp] theorem State.finish_flagN (s : State) : (s.finish).flagN = s.flagN := by
  simp [State.finish]

@[simp] theorem State.finish_flagZ (s : State) : (s.finish).flagZ = s.flagZ := by
  simp [State.finish]

@[simp] theorem State.finish_flagC (s : State) : (s.finish).flagC = s.flagC := by
  simp [State.finish]

@[simp] theorem State.finish_flagV (s : State) : (s.finish).flagV = s.flagV := by
  simp [State.finish]

@[simp] theorem State.finish_itstate (s : State) : (s.finish).itstate = s.nextIT := by
  simp [State.finish, State.nextIT]

@[simp] theorem State.finish_mem (s : State) : (s.finish).mem = s.mem := by
  simp [State.finish]

@[simp] theorem State.finish_text (s : State) : (s.finish).text = s.text := by
  simp [State.finish]

@[simp] theorem State.finish_devices (s : State) : (s.finish).devices = s.devices := by
  simp [State.finish]

@[simp] theorem State.finish_bigEndian (s : State) : (s.finish).bigEndian = s.bigEndian := by
  simp [State.finish]

@[simp] theorem State.finish_strictAlign (s : State) : (s.finish).strictAlign = s.strictAlign := by
  simp [State.finish]

@[simp] theorem State.finish_simdContext (s : State) : (s.finish).simdContext = s.simdContext := by
  simp [State.finish]

@[simp] theorem State.finish_simdRule (s : State) : (s.finish).simdRule = s.simdRule := by
  simp [State.finish]

@[simp] theorem State.finish_condFailChoices (s : State) : (s.finish).condFailChoices = s.condFailChoices := by
  simp [State.finish]

@[simp] theorem State.finish_freeIndex (s : State) : (s.finish).freeIndex = s.freeIndex := by
  simp [State.finish]

/-! ### State.doWriteBack -/

@[simp] theorem State.doWriteBack_iset (s : State) (p : LoadOperands) : (s.doWriteBack p).iset = s.iset := by
  unfold State.doWriteBack; split <;> rfl

@[simp] theorem State.doWriteBack_pc (s : State) (p : LoadOperands) : (s.doWriteBack p).pc = s.pc := by
  unfold State.doWriteBack; split <;> rfl

@[simp] theorem State.doWriteBack_dreg (s : State) (p : LoadOperands) : (s.doWriteBack p).dreg = s.dreg := by
  unfold State.doWriteBack; split <;> rfl

@[simp] theorem State.doWriteBack_flagN (s : State) (p : LoadOperands) : (s.doWriteBack p).flagN = s.flagN := by
  unfold State.doWriteBack; split <;> rfl

@[simp] theorem State.doWriteBack_flagZ (s : State) (p : LoadOperands) : (s.doWriteBack p).flagZ = s.flagZ := by
  unfold State.doWriteBack; split <;> rfl

@[simp] theorem State.doWriteBack_flagC (s : State) (p : LoadOperands) : (s.doWriteBack p).flagC = s.flagC := by
  unfold State.doWriteBack; split <;> rfl

@[simp] theorem State.doWriteBack_flagV (s : State) (p : LoadOperands) : (s.doWriteBack p).flagV = s.flagV := by
  unfold State.doWriteBack; split <;> rfl

@[simp] theorem State.doWriteBack_itstate (s : State) (p : LoadOperands) : (s.doWriteBack p).itstate = s.itstate := by
  unfold State.doWriteBack; split <;> rfl

@[simp] theorem State.doWriteBack_mem (s : State) (p : LoadOperands) : (s.doWriteBack p).mem = s.mem := by
  unfold State.doWriteBack; split <;> rfl

@[simp] theorem State.doWriteBack_text (s : State) (p : LoadOperands) : (s.doWriteBack p).text = s.text := by
  unfold State.doWriteBack; split <;> rfl

@[simp] theorem State.doWriteBack_devices (s : State) (p : LoadOperands) : (s.doWriteBack p).devices = s.devices := by
  unfold State.doWriteBack; split <;> rfl

@[simp] theorem State.doWriteBack_bigEndian (s : State) (p : LoadOperands) : (s.doWriteBack p).bigEndian = s.bigEndian := by
  unfold State.doWriteBack; split <;> rfl

@[simp] theorem State.doWriteBack_strictAlign (s : State) (p : LoadOperands) : (s.doWriteBack p).strictAlign = s.strictAlign := by
  unfold State.doWriteBack; split <;> rfl

@[simp] theorem State.doWriteBack_simdContext (s : State) (p : LoadOperands) : (s.doWriteBack p).simdContext = s.simdContext := by
  unfold State.doWriteBack; split <;> rfl

@[simp] theorem State.doWriteBack_simdRule (s : State) (p : LoadOperands) : (s.doWriteBack p).simdRule = s.simdRule := by
  unfold State.doWriteBack; split <;> rfl

@[simp] theorem State.doWriteBack_condFailChoices (s : State) (p : LoadOperands) : (s.doWriteBack p).condFailChoices = s.condFailChoices := by
  unfold State.doWriteBack; split <;> rfl

@[simp] theorem State.doWriteBack_freeIndex (s : State) (p : LoadOperands) : (s.doWriteBack p).freeIndex = s.freeIndex := by
  unfold State.doWriteBack; split <;> rfl

/-! ### State.completeLoad -/

@[simp] theorem State.completeLoad_iset (s : State) (p : LoadOperands) (v : DRegs) : (s.completeLoad p v).iset = s.iset := by
  simp [State.completeLoad]

@[simp] theorem State.completeLoad_pc (s : State) (p : LoadOperands) (v : DRegs) : (s.completeLoad p v).pc = s.pc + 4#32 := by
  simp [State.completeLoad]

@[simp] theorem State.completeLoad_gpr (s : State) (p : LoadOperands) (v : DRegs) : (s.completeLoad p v).gpr = (s.doWriteBack p).gpr := by
  unfold State.completeLoad; simp [State.doWriteBack, writeBackValue, State.readR]; cases p.writeBack <;> simp

@[simp] theorem State.completeLoad_dreg (s : State) (p : LoadOperands) (v : DRegs) : (s.completeLoad p v).dreg = v := by
  simp [State.completeLoad]

@[simp] theorem State.completeLoad_flagN (s : State) (p : LoadOperands) (v : DRegs) : (s.completeLoad p v).flagN = s.flagN := by
  simp [State.completeLoad]

@[simp] theorem State.completeLoad_flagZ (s : State) (p : LoadOperands) (v : DRegs) : (s.completeLoad p v).flagZ = s.flagZ := by
  simp [State.completeLoad]

@[simp] theorem State.completeLoad_flagC (s : State) (p : LoadOperands) (v : DRegs) : (s.completeLoad p v).flagC = s.flagC := by
  simp [State.completeLoad]

@[simp] theorem State.completeLoad_flagV (s : State) (p : LoadOperands) (v : DRegs) : (s.completeLoad p v).flagV = s.flagV := by
  simp [State.completeLoad]

@[simp] theorem State.completeLoad_itstate (s : State) (p : LoadOperands) (v : DRegs) : (s.completeLoad p v).itstate = s.nextIT := by
  simp [State.completeLoad, State.nextIT]

@[simp] theorem State.completeLoad_mem (s : State) (p : LoadOperands) (v : DRegs) : (s.completeLoad p v).mem = s.mem := by
  simp [State.completeLoad]

@[simp] theorem State.completeLoad_text (s : State) (p : LoadOperands) (v : DRegs) : (s.completeLoad p v).text = s.text := by
  simp [State.completeLoad]

@[simp] theorem State.completeLoad_devices (s : State) (p : LoadOperands) (v : DRegs) : (s.completeLoad p v).devices = s.devices := by
  simp [State.completeLoad]

@[simp] theorem State.completeLoad_bigEndian (s : State) (p : LoadOperands) (v : DRegs) : (s.completeLoad p v).bigEndian = s.bigEndian := by
  simp [State.completeLoad]

@[simp] theorem State.completeLoad_strictAlign (s : State) (p : LoadOperands) (v : DRegs) : (s.completeLoad p v).strictAlign = s.strictAlign := by
  simp [State.completeLoad]

@[simp] theorem State.completeLoad_simdContext (s : State) (p : LoadOperands) (v : DRegs) : (s.completeLoad p v).simdContext = s.simdContext := by
  simp [State.completeLoad]

@[simp] theorem State.completeLoad_simdRule (s : State) (p : LoadOperands) (v : DRegs) : (s.completeLoad p v).simdRule = s.simdRule := by
  simp [State.completeLoad]

@[simp] theorem State.completeLoad_condFailChoices (s : State) (p : LoadOperands) (v : DRegs) : (s.completeLoad p v).condFailChoices = s.condFailChoices := by
  simp [State.completeLoad]

@[simp] theorem State.completeLoad_freeIndex (s : State) (p : LoadOperands) (v : DRegs) : (s.completeLoad p v).freeIndex = s.freeIndex := by
  simp [State.completeLoad]

/-! ### State.abortedLoad -/

@[simp] theorem State.abortedLoad_iset (s : State) (p : LoadOperands) : (s.abortedLoad p).iset = s.iset := rfl

@[simp] theorem State.abortedLoad_pc (s : State) (p : LoadOperands) : (s.abortedLoad p).pc = s.pc := rfl

@[simp] theorem State.abortedLoad_gpr (s : State) (p : LoadOperands) : (s.abortedLoad p).gpr = s.gpr := rfl

@[simp] theorem State.abortedLoad_flagN (s : State) (p : LoadOperands) : (s.abortedLoad p).flagN = s.flagN := rfl

@[simp] theorem State.abortedLoad_flagZ (s : State) (p : LoadOperands) : (s.abortedLoad p).flagZ = s.flagZ := rfl

@[simp] theorem State.abortedLoad_flagC (s : State) (p : LoadOperands) : (s.abortedLoad p).flagC = s.flagC := rfl

@[simp] theorem State.abortedLoad_flagV (s : State) (p : LoadOperands) : (s.abortedLoad p).flagV = s.flagV := rfl

@[simp] theorem State.abortedLoad_itstate (s : State) (p : LoadOperands) : (s.abortedLoad p).itstate = s.itstate := rfl

@[simp] theorem State.abortedLoad_mem (s : State) (p : LoadOperands) : (s.abortedLoad p).mem = s.mem := rfl

@[simp] theorem State.abortedLoad_text (s : State) (p : LoadOperands) : (s.abortedLoad p).text = s.text := rfl

@[simp] theorem State.abortedLoad_devices (s : State) (p : LoadOperands) : (s.abortedLoad p).devices = s.devices := rfl

@[simp] theorem State.abortedLoad_bigEndian (s : State) (p : LoadOperands) : (s.abortedLoad p).bigEndian = s.bigEndian := rfl

@[simp] theorem State.abortedLoad_strictAlign (s : State) (p : LoadOperands) : (s.abortedLoad p).strictAlign = s.strictAlign := rfl

@[simp] theorem State.abortedLoad_simdContext (s : State) (p : LoadOperands) : (s.abortedLoad p).simdContext = s.simdContext := rfl

@[simp] theorem State.abortedLoad_simdRule (s : State) (p : LoadOperands) : (s.abortedLoad p).simdRule = s.simdRule := rfl

@[simp] theorem State.abortedLoad_condFailChoices (s : State) (p : LoadOperands) : (s.abortedLoad p).condFailChoices = s.condFailChoices := rfl

@[simp] theorem State.abortedLoad_freeIndex (s : State) (p : LoadOperands) : (s.abortedLoad p).freeIndex = s.freeIndex + 1 := rfl

/-! ### Registers -/

@[simp] theorem State.readR_writeR_same (s : State) (n : Fin Config.numR) (v : Word) : (s.writeR n v).readR n = v := by
  simp [State.readR, State.writeR]

theorem State.readR_writeR_other (s : State) (n k : Fin Config.numR) (v : Word) (h : k ≠ n) :
    (s.writeR n v).readR k = s.readR k := by
  have : n.val ≠ k.val := fun e => h (Fin.ext e.symm)
  simp [State.readR, State.writeR, this]

/-- The base register after the write-back, and every other register. -/
theorem State.readR_doWriteBack (s : State) (p : LoadOperands) (k : Fin Config.numR) :
    (s.doWriteBack p).readR k = if k = p.n then (writeBackValue s p).getD (s.readR k) else s.readR k := by
  unfold State.doWriteBack
  cases h : writeBackValue s p with
  | none => simp
  | some v =>
    by_cases hk : k = p.n
    · simp [hk]
    · simp [hk, State.readR_writeR_other]

@[simp] theorem State.readR_completeLoad (s : State) (p : LoadOperands) (v : DRegs) (k : Fin Config.numR) :
    (s.completeLoad p v).readR k = (s.doWriteBack p).readR k := by
  unfold State.readR; simp

@[simp] theorem State.readR_finish (s : State) (k : Fin Config.numR) : s.finish.readR k = s.readR k := by
  simp [State.readR]

@[simp] theorem State.readD_completeLoad (s : State) (p : LoadOperands) (v : DRegs) (k : Nat) :
    (s.completeLoad p v).readD k = DRegs.get v k := by
  simp [State.readD]

@[simp] theorem State.readD_finish (s : State) (k : Nat) : s.finish.readD k = s.readD k := by
  simp [State.readD]

@[simp] theorem State.readR_abortedLoad (s : State) (p : LoadOperands) (k : Fin Config.numR) :
    (s.abortedLoad p).readR k = s.readR k := rfl

theorem get_unspecifiedFrom (freeIndex d : Nat) : ∀ (n : Nat) (v : DRegs) {k : Nat}, k < 32 →
    DRegs.get (unspecifiedFrom freeIndex d n v) k
      = if d ≤ k ∧ k < d + n then Config.abortedD freeIndex k else DRegs.get v k
  | 0, v, k, _ => by rw [if_neg (by omega)]; rfl
  | n + 1, v, k, hk => by
    have ih := get_unspecifiedFrom freeIndex d n v hk
    unfold DRegs.get at ih ⊢
    rw [unspecifiedFrom, Vector.getElem?_setIfInBounds]
    by_cases h : d + n = k
    · subst h
      simp [hk]
    · rw [if_neg h, ih]
      by_cases h' : d ≤ k ∧ k < d + n
      · rw [if_pos h', if_pos (by omega)]
      · rw [if_neg h', if_neg (by omega)]

/-- After an aborted load a listed D register holds a free value and any other its own. -/
theorem State.readD_abortedLoad (s : State) (p : LoadOperands) {k : Nat} (hk : k < 32) :
    (s.abortedLoad p).readD k = if p.lists k then Config.abortedD s.freeIndex k else s.readD k := by
  show DRegs.get (abortedRegs s p) k = _
  rw [abortedRegs, get_unspecifiedFrom _ _ _ _ hk, get_unspecifiedFrom _ _ _ _ hk]
  by_cases h1 : p.d ≤ k ∧ k < p.d + p.regs <;> by_cases h2 : p.d2 ≤ k ∧ k < p.d2 + p.regs <;>
    simp [LoadOperands.lists, State.readD, h1, h2]

/-- The enable check depends only on its context and its rule (rule R134). -/
theorem State.simdAccess_congr (s t : State) (hc : t.simdContext = s.simdContext) (hr : t.simdRule = s.simdRule) :
    t.simdAccess = s.simdAccess := by
  simp [State.simdAccess, hc, hr]

end Sys2Proof.Machine
end

