-- ==== Sys2Proof/Laws/Ops.lean ====
section
/-! SUPPORT. What the shared operations do: elements and their lanes, one element read, the register file, the enable
check, the If-Then state. -/

namespace Sys2Proof.Machine

/-! ### Lanes -/

/-- The widths of an element in bits (rule R69). -/
def LaneWidth (w : Nat) : Prop := w = 8 ∨ w = 16 ∨ w = 32

theorem laneMask_getLsbD {w : Nat} (hw : LaneWidth w) (i : Nat) : (laneMask w).getLsbD i = decide (i < w) := by
  by_cases hi : i < 64
  · rcases hw with rfl | rfl | rfl <;> revert i <;> decide
  · rw [BitVec.getLsbD_of_ge _ _ (by omega)]
    rcases hw with rfl | rfl | rfl <;> simp <;> omega

/-- The bits of an element. -/
theorem elemGet_getLsbD {w : Nat} (hw : LaneWidth w) (v : DWord) (e i : Nat) :
    (elemGet v e w).getLsbD i = (v.getLsbD (e * w + i) && decide (i < w)) := by
  simp [elemGet, laneMask_getLsbD hw, BitVec.getLsbD_ushiftRight]

/-- The bits of a register after an element of it is written. -/
theorem elemSet_getLsbD {w : Nat} (hw : LaneWidth w) (v : DWord) (e : Nat) (x : DWord) (i : Nat) (hi : i < 64) :
    (elemSet v e w x).getLsbD i =
      if e * w ≤ i ∧ i < (e + 1) * w then x.getLsbD (i - e * w) else v.getLsbD i := by
  have hm : (e + 1) * w = e * w + w := by ring
  simp only [elemSet, BitVec.getLsbD_or, BitVec.getLsbD_and, BitVec.getLsbD_not, BitVec.getLsbD_shiftLeft,
    laneMask_getLsbD hw, hi, decide_true, Bool.true_and, hm]
  by_cases h1 : i < e * w
  · simp [h1, Nat.not_le.mpr h1]
  · by_cases h2 : i < e * w + w
    · simp [h1, h2, Nat.not_lt.mp h1, show i - e * w < w by omega]
    · simp [h1, h2, show ¬ i - e * w < w by omega]

/-- An element that fits its lane is read back as it was written. -/
theorem elemGet_elemSet_same {w : Nat} (hw : LaneWidth w) (v x : DWord) (e : Nat) (he : (e + 1) * w ≤ 64)
    (hx : ∀ i, w ≤ i → x.getLsbD i = false) : elemGet (elemSet v e w x) e w = x := by
  have hm : (e + 1) * w = e * w + w := by ring
  apply BitVec.eq_of_getLsbD_eq
  intro i hi
  rw [elemGet_getLsbD hw]
  by_cases h : i < w
  · rw [elemSet_getLsbD hw _ _ _ _ (by omega), if_pos (by omega)]
    simp [h]
  · simp [h, hx i (by omega)]

/-- The other elements of the register are left. -/
theorem elemGet_elemSet_other {w : Nat} (hw : LaneWidth w) (v x : DWord) (e k : Nat) (hk : (k + 1) * w ≤ 64)
    (hne : k ≠ e) : elemGet (elemSet v e w x) k w = elemGet v k w := by
  have hm : (k + 1) * w = k * w + w := by ring
  apply BitVec.eq_of_getLsbD_eq
  intro i hi
  rw [elemGet_getLsbD hw, elemGet_getLsbD hw]
  by_cases h : i < w
  · rw [elemSet_getLsbD hw _ _ _ _ (by omega), if_neg]
    intro ⟨h1, h2⟩
    rcases Nat.lt_or_gt_of_ne hne with hlt | hgt
    · have := Nat.mul_le_mul_right w (Nat.succ_le_of_lt hlt); simp only [Nat.succ_eq_add_one] at this; omega
    · have := Nat.mul_le_mul_right w (Nat.succ_le_of_lt hgt); simp only [Nat.succ_eq_add_one] at this; omega
  · simp [h]

/-- Two registers with the same elements are the same. -/
theorem eq_of_elemGet_eq {w n : Nat} (hw : LaneWidth w) (hn : n * w = 64) (u v : DWord)
    (h : ∀ e < n, elemGet u e w = elemGet v e w) : u = v := by
  have hw0 : 0 < w := by rcases hw with rfl | rfl | rfl <;> decide
  apply BitVec.eq_of_getLsbD_eq
  intro i hi
  have hdiv : i / w < n := Nat.div_lt_of_lt_mul (by rw [Nat.mul_comm]; omega)
  have := congrArg (fun z => z.getLsbD (i % w)) (h (i / w) hdiv)
  simpa [elemGet_getLsbD hw, Nat.mod_lt i hw0, Nat.div_add_mod'] using this

/-! ### Element values -/

/-- An element value fits its bytes. -/
theorem leValue_getLsbD_ge : ∀ (bs : List Byte) (i : Nat), 8 * bs.length ≤ i → (leValue bs).getLsbD i = false
  | [], i, _ => by simp [leValue]
  | b :: bs, i, h => by
    simp only [List.length_cons] at h
    have ih := leValue_getLsbD_ge bs (i - 8) (by omega)
    simp [leValue, ih, BitVec.getLsbD_of_ge b i (by omega)]

theorem elementValue_getLsbD_ge (big : Bool) (bs : List Byte) (i : Nat) (h : 8 * bs.length ≤ i) :
    (elementValue big bs).getLsbD i = false := by
  unfold elementValue
  split
  · exact leValue_getLsbD_ge _ _ (by simpa using h)
  · exact leValue_getLsbD_ge _ _ h

theorem Memory.readBytes_length (m : Memory) : ∀ (a n : Nat) {bs : List Byte}, m.readBytes a n = some bs → bs.length = n
  | _, 0, bs, h => by simp [Memory.readBytes] at h; simp [← h]
  | a, n + 1, bs, h => by
    unfold Memory.readBytes at h
    split at h
    · cases h
    · simp only [Option.map_eq_some_iff] at h
      obtain ⟨cs, hc, rfl⟩ := h
      simp [Memory.readBytes_length m (a + 1) n hc]

theorem State.elementAt_getLsbD_ge (s : State) (a n i : Nat) (h : 8 * n ≤ i) : (s.elementAt a n).getLsbD i = false := by
  unfold State.elementAt
  split
  · next bs hb => exact elementValue_getLsbD_ge _ _ _ (by rw [Memory.readBytes_length _ _ _ hb]; exact h)
  · simp

/-- Everything that one element read can answer (rules R42, R45, R56). -/
theorem State.memRead_cases (s : State) (a : Word) (n : Nat) :
    (s.strictAlign = true ∧ a.toNat % n ≠ 0 ∧ s.memRead a n = .error (.misaligned a))
    ∨ ((s.strictAlign = true → a.toNat % n = 0) ∧ (s.mem.readBytes a.toNat n).isSome = true
        ∧ s.memRead a n = .ok (s.elementAt a.toNat n))
    ∨ ((s.strictAlign = true → a.toNat % n = 0) ∧ s.mem.readBytes a.toNat n = none
        ∧ s.memRead a n = .error (.notHeld a)) := by
  unfold State.memRead
  split
  · next h => exact .inl ⟨h.1, h.2, rfl⟩
  · next h =>
    have h' : s.strictAlign = true → a.toNat % n = 0 := fun hs => by by_contra hc; exact h ⟨hs, hc⟩
    split
    · next bs hb => exact .inr (.inl ⟨h', by simp [hb], by simp [State.elementAt, hb]⟩)
    · next hb => exact .inr (.inr ⟨h', hb, rfl⟩)

theorem State.memRead_ok {s : State} {a : Word} {n : Nat} {x : DWord} (h : s.memRead a n = .ok x) :
    x = s.elementAt a.toNat n := by
  rcases s.memRead_cases a n with ⟨_, _, e⟩ | ⟨_, _, e⟩ | ⟨_, _, e⟩ <;> rw [e] at h <;> cases h
  rfl

/-! ### The register file -/

theorem DRegs.get_setElem (v : DRegs) (i e w : Nat) (x : DWord) (hi : i < 32) (k : Nat) :
    DRegs.get (DRegs.setElem v i e w x) k = if k = i then elemSet (DRegs.get v i) e w x else DRegs.get v k := by
  unfold DRegs.get DRegs.setElem
  rw [Vector.getElem?_setIfInBounds]
  by_cases h : k = i
  · subst h; simp [show k < Config.numD from hi, DRegs.get]
  · simp [h, Ne.symm h]

/-! ### The enable check -/

/-- How the enable check stops an instruction (rule R134). -/
theorem State.simdStop_cases (s : State) :
    (s.simdAccess = .enabled ∧ s.simdStop = none)
    ∨ (s.simdAccess = .undefined ∧ s.simdStop = some (.fault .undefined))
    ∨ (s.simdAccess = .hypTrap ∧ s.simdStop = some (.fault .hypTrap)) := by
  unfold State.simdStop
  cases h : s.simdAccess <;> simp

@[simp] theorem State.simdStop_of_enabled {s : State} (h : s.simdAccess = .enabled) : s.simdStop = none := by
  simp [State.simdStop, h]

/-! ### The If-Then state -/

/-- The condition passes in A32 (rule R26). -/
@[simp] theorem State.conditionPassed_of_a32 {s : State} (h : s.iset = .a32) : s.conditionPassed = true := by
  simp [State.conditionPassed, h]

@[simp] theorem State.nextIT_of_a32 {s : State} (h : s.iset = .a32) : s.nextIT = s.itstate := by
  simp [State.nextIT, h]

@[simp] theorem State.nextIT_of_t32 {s : State} (h : s.iset = .t32) : s.nextIT = itAdvance s.itstate := by
  simp [State.nextIT, h]

end Sys2Proof.Machine
end

