-- ==== Sys2Proof/Laws/Load.lean ====
section
/-! SUPPORT. What the element loops and the shared load operation can do, each said once. -/

namespace Sys2Proof.Machine

/-! ### The inner loop -/

/-- What the inner loop does where it completes: it has read two elements for each structure, in memory order, and put
them into the lanes of `D[i]` and `D[j]`; the running address has passed them. -/
theorem loadStructures_ok {s : State} {ebytes i j : Nat} (hw : LaneWidth (8 * ebytes)) (hi : i < 32) (hj : j < 32)
    (hij : i ≠ j) : ∀ (k e : Nat) (a : Word) (v : DRegs) {v' : DRegs} {a' : Word},
    (e + k) * (8 * ebytes) ≤ 64 → a.toNat + 2 * ebytes * k ≤ 2 ^ 32 →
    loadStructures s ebytes i j k e a v = .ok (v', a') →
    a' = a + BitVec.ofNat 32 (2 * ebytes * k)
    ∧ (∀ t < k, elemGet (v'.get i) (e + t) (8 * ebytes) = s.elementAt (a.toNat + 2 * ebytes * t) ebytes
        ∧ elemGet (v'.get j) (e + t) (8 * ebytes) = s.elementAt (a.toNat + 2 * ebytes * t + ebytes) ebytes)
    ∧ (∀ l, l < e → elemGet (v'.get i) l (8 * ebytes) = elemGet (v.get i) l (8 * ebytes)
        ∧ elemGet (v'.get j) l (8 * ebytes) = elemGet (v.get j) l (8 * ebytes))
    ∧ (∀ r, r ≠ i → r ≠ j → v'.get r = v.get r)
  | 0, e, a, v, v', a', _, _, h => by
    simp only [loadStructures, Except.ok.injEq, Prod.mk.injEq] at h
    obtain ⟨rfl, rfl⟩ := h
    simp
  | k + 1, e, a, v, v', a', hlane, hadr, h => by
    have heb : 1 ≤ ebytes := by rcases hw with h | h | h <;> omega
    have hmul : 2 * ebytes * (k + 1) = 2 * ebytes * k + 2 * ebytes := by ring
    unfold loadStructures at h
    split at h
    · cases h
    next x hx =>
    split at h
    · cases h
    next y hy =>
    have hx := State.memRead_ok hx
    have hy := State.memRead_ok hy
    have hay : (a + BitVec.ofNat 32 ebytes).toNat = a.toNat + ebytes := by
      rw [BitVec.toNat_add, BitVec.toNat_ofNat, Nat.mod_eq_of_lt (a := ebytes) (by omega), Nat.mod_eq_of_lt (by omega)]
    rw [hay] at hy
    -- the register file after this structure, lane by lane
    have hl : ∀ l, l ≤ e → (l + 1) * (8 * ebytes) ≤ 64 := fun l hl =>
      le_trans (Nat.mul_le_mul_right _ (by omega)) hlane
    have gi : DRegs.get (DRegs.setElem (DRegs.setElem v i e (8 * ebytes) x) j e (8 * ebytes) y) i
        = elemSet (v.get i) e (8 * ebytes) x := by
      rw [DRegs.get_setElem _ _ _ _ _ hj, if_neg hij, DRegs.get_setElem _ _ _ _ _ hi, if_pos rfl]
    have gj : DRegs.get (DRegs.setElem (DRegs.setElem v i e (8 * ebytes) x) j e (8 * ebytes) y) j
        = elemSet (v.get j) e (8 * ebytes) y := by
      rw [DRegs.get_setElem _ _ _ _ _ hj, if_pos rfl, DRegs.get_setElem _ _ _ _ _ hi, if_neg (Ne.symm hij)]
    have gr : ∀ r, r ≠ i → r ≠ j →
        DRegs.get (DRegs.setElem (DRegs.setElem v i e (8 * ebytes) x) j e (8 * ebytes) y) r = v.get r := by
      intro r h1 h2
      rw [DRegs.get_setElem _ _ _ _ _ hj, if_neg h2, DRegs.get_setElem _ _ _ _ _ hi, if_neg h1]
    -- the rest of the loop; where the address reaches the top of the address space nothing is left to read
    have key : ∃ b : Word, loadStructures s ebytes i j k (e + 1) b
        (DRegs.setElem (DRegs.setElem v i e (8 * ebytes) x) j e (8 * ebytes) y) = .ok (v', a')
        ∧ b = a + BitVec.ofNat 32 (2 * ebytes) ∧ (k = 0 ∨ b.toNat = a.toNat + 2 * ebytes) := by
      refine ⟨_, h, rfl, ?_⟩
      rcases Nat.eq_zero_or_pos k with hk | hk
      · exact .inl hk
      · right
        have : 2 * ebytes ≤ 2 * ebytes * k := Nat.le_mul_of_pos_right _ hk
        rw [BitVec.toNat_add, BitVec.toNat_ofNat, Nat.mod_eq_of_lt (a := 2 * ebytes) (by omega),
          Nat.mod_eq_of_lt (by omega)]
    obtain ⟨b, hb, hbv, hbn⟩ := key
    rcases hbn with rfl | hbn
    · simp only [loadStructures, Except.ok.injEq, Prod.mk.injEq] at hb
      obtain ⟨rfl, rfl⟩ := hb
      refine ⟨by simp [hbv], ?_, ?_, gr⟩
      · intro t ht
        obtain rfl : t = 0 := by omega
        rw [gi, gj]
        simp only [Nat.add_zero, Nat.mul_zero]
        rw [elemGet_elemSet_same hw _ _ _ (hl e le_rfl) (by rw [hx]; exact fun i hi => s.elementAt_getLsbD_ge _ _ i hi),
          elemGet_elemSet_same hw _ _ _ (hl e le_rfl) (by rw [hy]; exact fun i hi => s.elementAt_getLsbD_ge _ _ i hi)]
        exact ⟨hx, hy⟩
      · intro l hle
        rw [gi, gj]
        exact ⟨elemGet_elemSet_other hw _ _ _ _ (hl l (by omega)) (by omega),
          elemGet_elemSet_other hw _ _ _ _ (hl l (by omega)) (by omega)⟩
    · obtain ⟨ha', hread, hold, hrest⟩ :=
        loadStructures_ok hw hi hj hij k (e + 1) b _ (by rw [show e + 1 + k = e + (k + 1) by ring]; exact hlane)
          (by omega) hb
      refine ⟨?_, ?_, ?_, ?_⟩
      · rw [ha', hbv, BitVec.add_assoc, hmul, Nat.add_comm, BitVec.ofNat_add]
      · intro t ht
        rcases Nat.eq_zero_or_pos t with rfl | ht0
        · have := hold e (by omega)
          simp only [Nat.add_zero, Nat.mul_zero]
          rw [this.1, this.2, gi, gj,
            elemGet_elemSet_same hw _ _ _ (hl e le_rfl) (by rw [hx]; exact fun i hi => s.elementAt_getLsbD_ge _ _ i hi),
            elemGet_elemSet_same hw _ _ _ (hl e le_rfl) (by rw [hy]; exact fun i hi => s.elementAt_getLsbD_ge _ _ i hi)]
          exact ⟨hx, hy⟩
        · obtain ⟨u, rfl⟩ : ∃ u, t = u + 1 := ⟨t - 1, by omega⟩
          have := hread u (by omega)
          rw [show e + (u + 1) = e + 1 + u by ring, this.1, this.2, hbn,
            show a.toNat + 2 * ebytes + 2 * ebytes * u = a.toNat + 2 * ebytes * (u + 1) by ring]
          exact ⟨rfl, rfl⟩
      · intro l hle
        have := hold l (by omega)
        rw [this.1, this.2, gi, gj]
        exact ⟨elemGet_elemSet_other hw _ _ _ _ (hl l (by omega)) (by omega),
          elemGet_elemSet_other hw _ _ _ _ (hl l (by omega)) (by omega)⟩
      · intro r h1 h2
        rw [hrest r h1 h2, gr r h1 h2]

/-! ### The outer loop -/

/-- What the outer loop does where it completes: the lanes of every register pair hold the elements of its 16 bytes,
and no other register has changed (rules R100, R101). -/
theorem loadPairs_ok {s : State} {p : LoadOperands} (hw : LaneWidth (8 * p.ebytes)) (hfill : p.ebytes * p.elements = 8) :
    ∀ (k r : Nat) (a : Word) (v : DRegs) {v' : DRegs},
    p.d + r + k ≤ p.d2 + r + k → p.d2 + r + k ≤ 32 →
    (∀ x < k, ∀ y < k, p.d + r + x ≠ p.d2 + r + y) →
    a.toNat + 16 * k ≤ 2 ^ 32 →
    loadPairs s p k r a v = .ok v' →
    (∀ x < k, ∀ e < p.elements,
        elemGet (v'.get (p.d + r + x)) e (8 * p.ebytes) = s.elementAt (a.toNat + 16 * x + 2 * p.ebytes * e) p.ebytes
        ∧ elemGet (v'.get (p.d2 + r + x)) e (8 * p.ebytes)
          = s.elementAt (a.toNat + 16 * x + 2 * p.ebytes * e + p.ebytes) p.ebytes)
    ∧ (∀ q, (∀ x < k, q ≠ p.d + r + x ∧ q ≠ p.d2 + r + x) → v'.get q = v.get q)
  | 0, r, a, v, v', _, _, _, _, h => by
    simp only [loadPairs, Except.ok.injEq] at h
    subst h
    simp
  | k + 1, r, a, v, v', hd, hd2, hne, hadr, h => by
    unfold loadPairs at h
    split at h
    · cases h
    next u a' hu =>
    have h16 : 2 * p.ebytes * p.elements = 16 := by rw [Nat.mul_assoc, hfill]
    have hlanes : (0 + p.elements) * (8 * p.ebytes) ≤ 64 := by
      rw [show (0 + p.elements) * (8 * p.ebytes) = 8 * (p.ebytes * p.elements) by ring, hfill]
    obtain ⟨ha', hread, -, hrest⟩ := loadStructures_ok hw (by omega) (by omega)
      (by have := hne 0 (by omega) 0 (by omega); omega) _ _ _ _ hlanes (by rw [h16]; omega) hu
    rw [h16] at ha'
    rcases Nat.eq_zero_or_pos k with rfl | hk
    · simp only [loadPairs, Except.ok.injEq] at h
      subst h
      constructor
      · intro x hx e he
        obtain rfl : x = 0 := by omega
        simpa using hread e he
      · intro q hq
        have := hq 0 (by omega)
        exact hrest q (by omega) (by omega)
    · have han : a'.toNat = a.toNat + 16 := by
        rw [ha', BitVec.toNat_add]; simp only [BitVec.toNat_ofNat]; omega
      obtain ⟨hr', hs'⟩ := loadPairs_ok hw hfill k (r + 1) a' u (by omega) (by omega)
        (fun x hx y hy => by have := hne (x + 1) (by omega) (y + 1) (by omega); omega) (by omega) h
      constructor
      · intro x hx e he
        rcases Nat.eq_zero_or_pos x with rfl | hx0
        · have hkeep1 := hs' (p.d + r) (fun y hy => by
            have := hne 0 (by omega) (y + 1) (by omega); omega)
          have hkeep2 := hs' (p.d2 + r) (fun y hy => by
            have := hne (y + 1) (by omega) 0 (by omega); omega)
          simp only [Nat.add_zero, Nat.mul_zero]
          rw [hkeep1, hkeep2]
          simpa using hread e he
        · obtain ⟨y, rfl⟩ : ∃ y, x = y + 1 := ⟨x - 1, by omega⟩
          have := hr' y (by omega) e he
          rw [show p.d + r + (y + 1) = p.d + (r + 1) + y by ring, show p.d2 + r + (y + 1) = p.d2 + (r + 1) + y by ring,
            this.1, this.2, han, show a.toNat + 16 + 16 * y = a.toNat + 16 * (y + 1) by ring]
          exact ⟨rfl, rfl⟩
      · intro q hq
        rw [hs' q fun y hy => by have := hq (y + 1) (by omega); omega]
        have := hq 0 (by omega)
        exact hrest q (by omega) (by omega)

/-! ### The shared operation -/

/-- Everything that a decoded register list can be (rule R95). -/
theorem decodeOperands_ok {f : Fields} {p : LoadOperands} (h : decodeOperands f = .ok p) :
    p.regs = pairCount f.shape ∧ elementBytes f.size = some p.ebytes ∧ p.alignment = alignmentBytes f.align
    ∧ p.d = f.d.val ∧ p.d2 = f.d.val + pairSpacing f.shape ∧ p.d2 + p.regs ≤ 32
    ∧ p.n.val = f.n.val ∧ p.writeBack = writeBackOf f.m
    ∧ ¬ (f.shape.twoRegs = true ∧ f.align = .a256) := by
  unfold decodeOperands at h
  split at h
  · cases h
  next h0 =>
  split at h
  · cases h
  next eb heb =>
  split at h
  next hn =>
    split at h
    · cases h
    next hlist =>
    cases h
    refine ⟨rfl, heb, rfl, rfl, rfl, by simpa using hlist, rfl, rfl, ?_⟩
    simpa using h0
  next => cases h

/-- The element size and count of decoded operands (rule R69). -/
theorem elementBytes_width {z : SizeField} {eb : Nat} (h : elementBytes z = some eb) :
    LaneWidth (8 * eb) ∧ eb * (8 / eb) = 8 := by
  cases z <;> simp [elementBytes] at h <;> subst h <;> simp [LaneWidth]

/-- Where the decode stops an instruction, it has no operands, and conversely. -/
theorem decodeStop_none {f : Fields} : decodeStop f = none ↔ ∃ p, decodeOperands f = .ok p := by
  unfold decodeStop
  cases h : decodeOperands f <;> simp

theorem decodeStop_error {f : Fields} {stop : Stop} (h : decodeOperands f = .error stop) : decodeStop f = some stop := by
  simp [decodeStop, h]

/-- Everything that the operation can do after its early checks, where it has a next state (rule R97). -/
theorem loadAccess_next {p : LoadOperands} {s t : State} (h : loadAccess p s = .next t) :
    (s.readR p.n).toNat % p.alignment = 0 ∧ (s.readR p.n).toNat + p.bytes ≤ Config.addressSpace
    ∧ s.touchesDevice (s.readR p.n).toNat p.bytes = false
    ∧ ∃ v, loadPairs s p p.regs 0 (s.readR p.n) s.dreg = .ok v ∧ t = s.completeLoad p v := by
  unfold loadAccess at h
  simp only [raise, refuse] at h
  split at h
  · cases h
  next h1 =>
  split at h
  · cases h
  next h2 =>
  split at h
  · cases h
  next h3 =>
  split at h
  · cases h
  next v hv =>
  cases h
  exact ⟨not_not.mp h1, Nat.le_of_not_lt h2, by simpa using h3, v, hv, rfl⟩

/-- Everything that the operation can do after its early checks, where it aborts (rule R136): an element that memory does not
hold stopped the loop, and the fault carries the faulted state. -/
theorem loadAccess_dataAbort {p : LoadOperands} {s t : State} {a : Word} (h : loadAccess p s = .fault (.dataAbort a t)) :
    (s.readR p.n).toNat % p.alignment = 0 ∧ (s.readR p.n).toNat + p.bytes ≤ Config.addressSpace
    ∧ s.touchesDevice (s.readR p.n).toNat p.bytes = false
    ∧ loadPairs s p p.regs 0 (s.readR p.n) s.dreg = .error (.notHeld a) ∧ t = s.abortedLoad p := by
  unfold loadAccess at h
  simp only [raise, refuse] at h
  split at h
  · cases h
  next h1 =>
  split at h
  · cases h
  next h2 =>
  split at h
  · cases h
  next h3 =>
  split at h
  next r hr =>
    cases r with
    | misaligned b => cases h
    | notHeld b =>
      cases h
      exact ⟨not_not.mp h1, Nat.le_of_not_lt h2, by simpa using h3, hr, rfl⟩
  next => cases h

/-- The list of decoded operands is the list that the fields name (rule R72). -/
theorem LoadOperands.lists_iff {f : Fields} {p : LoadOperands} (h : decodeOperands f = .ok p) (k : Nat) :
    p.lists k = true ↔ k ∈ listed f.shape f.d.val := by
  obtain ⟨h1, -, -, h2, h3, -⟩ := decodeOperands_ok h
  simp only [LoadOperands.lists, Bool.or_eq_true, Bool.and_eq_true, decide_eq_true_eq]
  rw [h1, h2, h3]
  cases f.shape <;> simp only [pairCount, pairSpacing, listed, List.mem_cons, List.not_mem_nil, or_false] <;> omega

@[simp] theorem Stop.outcome_ne_next (x : Stop) (t : State) : x.outcome ≠ .next t := by
  cases x <;> simp [Stop.outcome, raise, refuse]

/-- Everything that an instruction can do where it has a next state: nothing but the advance, where its condition failed
(rule R111); or the load (rule R97). -/
theorem execFields_next {f : Fields} {s t : State} (h : execFields f s = .next t) :
    s.iset = f.iset ∧
    ((s.conditionPassed = false ∧ (t = s.finish ∨ t = s.takeChoice.finish))
      ∨ (s.conditionPassed = true ∧ s.simdAccess = .enabled
          ∧ ∃ p, decodeOperands f = .ok p ∧ loadAccess p s = .next t)) := by
  unfold execFields at h
  split at h
  · cases h
  next hi =>
  refine ⟨not_not.mp hi, ?_⟩
  split at h
  next hc =>
    right
    refine ⟨hc, ?_⟩
    unfold execPassed at h
    split at h
    · exact absurd h (Stop.outcome_ne_next _ _)
    next hes =>
    split at h
    · exact absurd h (Stop.outcome_ne_next _ _)
    next p hp =>
    refine ⟨?_, p, hp, h⟩
    unfold earlyStop at hes
    rcases s.simdStop_cases with ⟨he, _⟩ | ⟨_, he⟩ | ⟨_, he⟩
    · exact he
    all_goals rw [he] at hes; cases hd : decodeStop f <;> simp [hd] at hes
    all_goals split at hes <;> (try split at hes) <;> cases hes
  next hc =>
    left
    refine ⟨by simpa using hc, ?_⟩
    unfold execFailed at h
    split at h
    · cases h; exact .inl rfl
    · split at h
      · exact absurd h (Stop.outcome_ne_next _ _)
      · cases h; exact .inr rfl

/-- A stop of the decode or of the enable check is no DataAbort (rules R98, R112). -/
theorem earlyStop_ne_dataAbort {f : Fields} {s : State} {stop : Stop} (h : earlyStop f s = some stop) (a : Word) (t : State) :
    stop.outcome ≠ .fault (.dataAbort a t) := by
  have hdec : ∀ x, decodeStop f = some x → x.outcome ≠ .fault (.dataAbort a t) := by
    intro x hx
    unfold decodeStop decodeOperands at hx
    split at hx
    · cases hx
    next e he =>
    cases hx
    split at he
    · cases he; simp [Stop.outcome, raise]
    split at he
    · cases he; simp [Stop.outcome, raise]
    split at he
    · split at he
      · cases he; simp [Stop.outcome, refuse]
      · cases he
    · cases he; simp [Stop.outcome, refuse]
  have hsimd : ∀ x, s.simdStop = some x → x.outcome ≠ .fault (.dataAbort a t) := by
    intro x hx
    unfold State.simdStop at hx
    split at hx <;> cases hx <;> simp [Stop.outcome, raise]
  unfold earlyStop at h
  split at h
  · cases h
  next x hx _ => cases h; exact hdec _ hx
  next x _ hx => cases h; exact hsimd _ hx
  next x y hx hy =>
    split at h
    · cases h; exact hdec _ hx
    split at h <;> cases h
    · exact hsimd _ hy
    · exact hdec _ hx

/-- Everything that an instruction can do where it aborts (rule R136): its condition passed and its load met an element that
memory does not hold. -/
theorem execFields_dataAbort {f : Fields} {s t : State} {a : Word} (h : execFields f s = .fault (.dataAbort a t)) :
    s.iset = f.iset ∧ s.conditionPassed = true
    ∧ ∃ p, decodeOperands f = .ok p ∧ earlyStop f s = none ∧ loadAccess p s = .fault (.dataAbort a t) := by
  unfold execFields at h
  split at h
  · cases h
  next hi =>
  refine ⟨not_not.mp hi, ?_⟩
  split at h
  next hc =>
    refine ⟨hc, ?_⟩
    unfold execPassed at h
    split at h
    next stop hs => exact absurd h (earlyStop_ne_dataAbort hs a t)
    next hs =>
    split at h
    next e he =>
      exfalso
      unfold earlyStop at hs
      rw [decodeStop_error he] at hs
      split at hs
      next h0 _ => cases h0
      · cases hs
      next h0 _ => cases h0
      · split at hs
        · cases hs
        · split at hs <;> cases hs
    next p hp => exact ⟨p, hp, hs, h⟩
  next =>
    exfalso
    unfold execFailed at h
    split at h
    · cases h
    next stop hs =>
    split at h
    · exact earlyStop_ne_dataAbort hs a t h
    · cases h

/-- With Advanced SIMD enabled and the condition passed, an instruction whose operands decode runs the access. -/
theorem execFields_of_enabled {f : Fields} {s : State} {p : LoadOperands} (hi : s.iset = f.iset)
    (hc : s.conditionPassed = true) (he : s.simdAccess = .enabled) (hp : decodeOperands f = .ok p) :
    execFields f s = loadAccess p s := by
  have hd : decodeStop f = none := decodeStop_none.mpr ⟨p, hp⟩
  simp [execFields, hi, hc, execPassed, earlyStop, hd, State.simdStop_of_enabled he, hp]

/-- Every meaning runs the shared operation on its instruction's fields. -/
theorem exec_eq_execFields (i : Instr) (s : State) : exec i s = execFields i.fields s := by
  cases i <;> rfl

end Sys2Proof.Machine
end

