-- ==== Sys2Proof/Laws/PerInstr.lean ====
section
/-! SUPPORT. Statements about every instruction, one lemma per constructor. -/

namespace Sys2Proof.Laws

/-- The encoded word of an instruction tells its instruction set: bits [31:23] are that set's and not the other's
(rules R61 to R65, R73). -/
def WordNamesItsSet.Statement (i : Instr) : Prop :=
  isetOfWord (encode i) = some i.iset

theorem WordNamesItsSet.undefinedA1Align (shape : Shape) (size : SizeField) (d : DReg) (n m : GField) :
    WordNamesItsSet.Statement (.undefinedA1Align shape size d n m) :=
  isetOfWord_encodeFields _

theorem WordNamesItsSet.undefinedA1Size (shape : Shape) (align : AlignField) (d : DReg) (n m : GField) :
    WordNamesItsSet.Statement (.undefinedA1Size shape align d n m) :=
  isetOfWord_encodeFields _

theorem WordNamesItsSet.undefinedA2Size (align : AlignField) (d : DReg) (n m : GField) :
    WordNamesItsSet.Statement (.undefinedA2Size align d n m) :=
  isetOfWord_encodeFields _

theorem WordNamesItsSet.unpredictableA1BasePC (shape : Shape) (size : SizeField) (align : AlignField) (d : DReg) (m : GField) :
    WordNamesItsSet.Statement (.unpredictableA1BasePC shape size align d m) :=
  isetOfWord_encodeFields _

theorem WordNamesItsSet.unpredictableA2BasePC (size : SizeField) (align : AlignField) (d : DReg) (m : GField) :
    WordNamesItsSet.Statement (.unpredictableA2BasePC size align d m) :=
  isetOfWord_encodeFields _

theorem WordNamesItsSet.unpredictableA1SingleD31 (size : SizeField) (align : AlignField) (n m : GField) :
    WordNamesItsSet.Statement (.unpredictableA1SingleD31 size align n m) :=
  isetOfWord_encodeFields _

theorem WordNamesItsSet.unpredictableA1DoubleD30 (size : SizeField) (align : AlignField) (d : DReg) (n m : GField) :
    WordNamesItsSet.Statement (.unpredictableA1DoubleD30 size align d n m) :=
  isetOfWord_encodeFields _

theorem WordNamesItsSet.unpredictableA2D30 (size : SizeField) (align : AlignField) (d : DReg) (n m : GField) :
    WordNamesItsSet.Statement (.unpredictableA2D30 size align d n m) :=
  isetOfWord_encodeFields _

theorem WordNamesItsSet.unpredictableA2D29 (size : SizeField) (align : AlignField) (n m : GField) :
    WordNamesItsSet.Statement (.unpredictableA2D29 size align n m) :=
  isetOfWord_encodeFields _

theorem WordNamesItsSet.vld2A1SingleOffset (size : SizeField) (align : AlignField) (d : DReg) (n : GField) :
    WordNamesItsSet.Statement (.vld2A1SingleOffset size align d n) :=
  isetOfWord_encodeFields _

theorem WordNamesItsSet.vld2A1SinglePost (size : SizeField) (align : AlignField) (d : DReg) (n : GField) :
    WordNamesItsSet.Statement (.vld2A1SinglePost size align d n) :=
  isetOfWord_encodeFields _

theorem WordNamesItsSet.vld2A1SingleIndex (size : SizeField) (align : AlignField) (d : DReg) (n m : GField) :
    WordNamesItsSet.Statement (.vld2A1SingleIndex size align d n m) :=
  isetOfWord_encodeFields _

theorem WordNamesItsSet.vld2A1DoubleOffset (size : SizeField) (align : AlignField) (d : DReg) (n : GField) :
    WordNamesItsSet.Statement (.vld2A1DoubleOffset size align d n) :=
  isetOfWord_encodeFields _

theorem WordNamesItsSet.vld2A1DoublePost (size : SizeField) (align : AlignField) (d : DReg) (n : GField) :
    WordNamesItsSet.Statement (.vld2A1DoublePost size align d n) :=
  isetOfWord_encodeFields _

theorem WordNamesItsSet.vld2A1DoubleIndex (size : SizeField) (align : AlignField) (d : DReg) (n m : GField) :
    WordNamesItsSet.Statement (.vld2A1DoubleIndex size align d n m) :=
  isetOfWord_encodeFields _

theorem WordNamesItsSet.vld2A2Offset (size : SizeField) (align : AlignField) (d : DReg) (n : GField) :
    WordNamesItsSet.Statement (.vld2A2Offset size align d n) :=
  isetOfWord_encodeFields _

theorem WordNamesItsSet.vld2A2Post (size : SizeField) (align : AlignField) (d : DReg) (n : GField) :
    WordNamesItsSet.Statement (.vld2A2Post size align d n) :=
  isetOfWord_encodeFields _

theorem WordNamesItsSet.vld2A2Index (size : SizeField) (align : AlignField) (d : DReg) (n m : GField) :
    WordNamesItsSet.Statement (.vld2A2Index size align d n m) :=
  isetOfWord_encodeFields _

theorem WordNamesItsSet.undefinedT1Align (shape : Shape) (size : SizeField) (d : DReg) (n m : GField) :
    WordNamesItsSet.Statement (.undefinedT1Align shape size d n m) :=
  isetOfWord_encodeFields _

theorem WordNamesItsSet.undefinedT1Size (shape : Shape) (align : AlignField) (d : DReg) (n m : GField) :
    WordNamesItsSet.Statement (.undefinedT1Size shape align d n m) :=
  isetOfWord_encodeFields _

theorem WordNamesItsSet.undefinedT2Size (align : AlignField) (d : DReg) (n m : GField) :
    WordNamesItsSet.Statement (.undefinedT2Size align d n m) :=
  isetOfWord_encodeFields _

theorem WordNamesItsSet.unpredictableT1BasePC (shape : Shape) (size : SizeField) (align : AlignField) (d : DReg) (m : GField) :
    WordNamesItsSet.Statement (.unpredictableT1BasePC shape size align d m) :=
  isetOfWord_encodeFields _

theorem WordNamesItsSet.unpredictableT2BasePC (size : SizeField) (align : AlignField) (d : DReg) (m : GField) :
    WordNamesItsSet.Statement (.unpredictableT2BasePC size align d m) :=
  isetOfWord_encodeFields _

theorem WordNamesItsSet.unpredictableT1SingleD31 (size : SizeField) (align : AlignField) (n m : GField) :
    WordNamesItsSet.Statement (.unpredictableT1SingleD31 size align n m) :=
  isetOfWord_encodeFields _

theorem WordNamesItsSet.unpredictableT1DoubleD30 (size : SizeField) (align : AlignField) (d : DReg) (n m : GField) :
    WordNamesItsSet.Statement (.unpredictableT1DoubleD30 size align d n m) :=
  isetOfWord_encodeFields _

theorem WordNamesItsSet.unpredictableT2D30 (size : SizeField) (align : AlignField) (d : DReg) (n m : GField) :
    WordNamesItsSet.Statement (.unpredictableT2D30 size align d n m) :=
  isetOfWord_encodeFields _

theorem WordNamesItsSet.unpredictableT2D29 (size : SizeField) (align : AlignField) (n m : GField) :
    WordNamesItsSet.Statement (.unpredictableT2D29 size align n m) :=
  isetOfWord_encodeFields _

theorem WordNamesItsSet.vld2T1SingleOffset (size : SizeField) (align : AlignField) (d : DReg) (n : GField) :
    WordNamesItsSet.Statement (.vld2T1SingleOffset size align d n) :=
  isetOfWord_encodeFields _

theorem WordNamesItsSet.vld2T1SinglePost (size : SizeField) (align : AlignField) (d : DReg) (n : GField) :
    WordNamesItsSet.Statement (.vld2T1SinglePost size align d n) :=
  isetOfWord_encodeFields _

theorem WordNamesItsSet.vld2T1SingleIndex (size : SizeField) (align : AlignField) (d : DReg) (n m : GField) :
    WordNamesItsSet.Statement (.vld2T1SingleIndex size align d n m) :=
  isetOfWord_encodeFields _

theorem WordNamesItsSet.vld2T1DoubleOffset (size : SizeField) (align : AlignField) (d : DReg) (n : GField) :
    WordNamesItsSet.Statement (.vld2T1DoubleOffset size align d n) :=
  isetOfWord_encodeFields _

theorem WordNamesItsSet.vld2T1DoublePost (size : SizeField) (align : AlignField) (d : DReg) (n : GField) :
    WordNamesItsSet.Statement (.vld2T1DoublePost size align d n) :=
  isetOfWord_encodeFields _

theorem WordNamesItsSet.vld2T1DoubleIndex (size : SizeField) (align : AlignField) (d : DReg) (n m : GField) :
    WordNamesItsSet.Statement (.vld2T1DoubleIndex size align d n m) :=
  isetOfWord_encodeFields _

theorem WordNamesItsSet.vld2T2Offset (size : SizeField) (align : AlignField) (d : DReg) (n : GField) :
    WordNamesItsSet.Statement (.vld2T2Offset size align d n) :=
  isetOfWord_encodeFields _

theorem WordNamesItsSet.vld2T2Post (size : SizeField) (align : AlignField) (d : DReg) (n : GField) :
    WordNamesItsSet.Statement (.vld2T2Post size align d n) :=
  isetOfWord_encodeFields _

theorem WordNamesItsSet.vld2T2Index (size : SizeField) (align : AlignField) (d : DReg) (n m : GField) :
    WordNamesItsSet.Statement (.vld2T2Index size align d n m) :=
  isetOfWord_encodeFields _

end Sys2Proof.Laws
end

