-- ==== Sys2Proof/Laws/Step.lean ====
section
/-! SUPPORT. What one step can do, said once. -/

namespace Sys2Proof.Machine

/-- A step that has a next state has fetched an instruction and executed it. -/
theorem step_next {s t : State} (h : step s = .next t) :
    ∃ i, s.fetch = .ok i ∧ s.pc.toNat % fetchAlignment s.iset = 0 ∧ exec i s = .next t := by
  unfold step at h
  split at h
  next i hi =>
    refine ⟨i, hi, ?_, h⟩
    unfold State.fetch at hi
    split at hi
    · cases hi
    next hal => exact not_not.mp hal
  next => simp [refuse] at h

/-- A final state is one whose program counter is aligned and outside the program text (rules R46, R163). -/
theorem State.final_iff (s : State) :
    s.final = true ↔ s.pc.toNat % fetchAlignment s.iset = 0 ∧ s.text.readByte s.pc.toNat = none := by
  simp [State.final]

/-- A fetched instruction is the one that the decoder reads from the bytes at the program counter. -/
theorem fetch_ok {s : State} {i : Instr} (h : s.fetch = .ok i) : ∃ rest, decode s.iset s.fetchBytes = .ok (i, rest) := by
  unfold State.fetch at h
  split at h
  · cases h
  split at h
  next j rest hj => cases h; exact ⟨rest, hj⟩
  · cases h
  next => split at h <;> cases h

/-- Whatever a step does, it is this: the memories and every parameter stay, the program counter advances by four. -/
theorem exec_next_context {i : Instr} {s t : State} (h : exec i s = .next t) :
    t.pc = s.pc + 4#32 ∧ t.itstate = s.nextIT ∧ t.mem = s.mem ∧ t.text = s.text ∧ t.iset = s.iset := by
  rw [exec_eq_execFields] at h
  obtain ⟨-, ⟨-, rfl | rfl⟩ | ⟨-, -, p, -, hp⟩⟩ := execFields_next h
  · simp
  · simp [State.nextIT]
  · obtain ⟨-, -, -, v, -, rfl⟩ := loadAccess_next hp
    simp

end Sys2Proof.Machine
end

