-- ==== Sys2Proof/Tests/Slice0.lean ====
section
/-! SUPPORT. Tests of the model: ill-formed terms that the check refuses, the decoding of every constructor, one step of
every instruction on a small state, and for every statement with hypotheses a witness that meets them. The expected
values are the vectors of 95_test_vectors.md and values computed by hand from rules R97 to R100, outside the model. -/

namespace Sys2Proof.Machine

-- One theorem after another: many `decide +kernel` at once exhaust the threads.
set_option Elab.async false

/-! ### The test state -/

/-- The memory image M of 95_test_vectors.md: the byte at 0x1000+i is i, for i below 0x80. -/
def testMemory : Memory := (List.range 128).map fun i => (0x1000 + i, BitVec.ofNat 8 i)

/-- What every D register holds before a test. -/
def filler : DWord := 0xA5A5A5A5A5A5A5A5#64

/-- A32, Advanced SIMD enabled, the memory image M. -/
def bed : State :=
  { State.reset with
    gpr := #v[0x1000, 0x1010, 0x1008, 0x1004, 0x1001, 0xFFFFFFF0, 0x1078, 0xFFFFFFF8, 0, 0, 0, 0, 0, 0x1040, 0x1020]
    dreg := Vector.replicate 32 filler
    mem := testMemory
    simdRule := [(SimdContext.reset, .enabled)] }

/-- The same in T32, outside an IT block. -/
def bedT : State := { bed with iset := .t32 }

/-- The same in T32, in the last place of an IT EQ block, with Z = 0: the condition fails. -/
def bedFailed : State := { bedT with itstate := 0x08#8 }

/-- The test state with an answer of the Advanced SIMD enable check. -/
def bedWith (a : SimdAccess) : State := { bed with simdRule := [(SimdContext.reset, a)] }

/-- The test state with a value in R0. -/
def bedR0 (v : Word) : State := bed.writeR 0 v

/-- The outcome is a next state of which the test holds. -/
def nextHas (o : Host.Outcome State Fault Refusal) (p : State → Bool) : Bool :=
  match o with
  | .next t => p t
  | .fault _ => false
  | .refused _ => false

/-- How the outcome stops the run, if it does. -/
def stopOf : Host.Outcome State Fault Refusal → Option Stop
  | .next _ => none
  | .fault r => some (.fault r)
  | .refused r => some (.refusal r)

/-- The outcome is a DataAbort at the address with a faulted state of which the test holds. -/
def abortHas (o : Host.Outcome State Fault Refusal) (a : Word) (p : State → Bool) : Bool :=
  match o with
  | .fault (.dataAbort b t) => a == b && p t
  | _ => false

theorem exists_abort {o : Host.Outcome State Fault Refusal} {a : Word} {p : State → Bool} (h : abortHas o a p = true) :
    ∃ t, o = .fault (.dataAbort a t) ∧ p t = true := by
  unfold abortHas at h
  split at h
  · simp only [Bool.and_eq_true, beq_iff_eq] at h
    obtain ⟨rfl, h⟩ := h
    exact ⟨_, rfl, h⟩
  · cases h

theorem exists_next {o : Host.Outcome State Fault Refusal} {p : State → Bool} (h : nextHas o p = true) :
    ∃ t, o = .next t ∧ p t = true := by
  cases o with
  | next t => exact ⟨t, rfl, h⟩
  | fault r => cases h
  | refused r => cases h

theorem readable_of_readBytes {s : State} {a n : Nat} (h : (s.mem.readBytes a n).isSome = true) : s.readable a n :=
  (Memory.readBytes_isSome s.mem a n).mp h

theorem not_readable_of_readBytes {s : State} {a n : Nat} (h : s.mem.readBytes a n = none) : ¬ s.readable a n := by
  intro hr
  have := (Memory.readBytes_isSome s.mem a n).mpr hr
  rw [h] at this
  cases this

/-! ### Ill-formed terms are refused -/

theorem test_wf_refuses_reserved_size_of_a_load :
    Instr.wf (.vld2A1SingleOffset .reserved .omitted 0 0) = false := by decide

theorem test_wf_refuses_alignment_256_of_a_two_register_list :
    Instr.wf (.vld2A1SinglePost .b8 .a256 0 0) = false := by decide

theorem test_wf_refuses_base_register_15 :
    Instr.wf (.vld2A1DoubleOffset .b8 .omitted 0 15) = false := by decide

theorem test_wf_refuses_index_register_13 :
    Instr.wf (.vld2A1SingleIndex .b8 .omitted 0 0 13) = false := by decide

theorem test_wf_refuses_index_register_15 :
    Instr.wf (.vld2A2Index .b8 .omitted 0 0 15) = false := by decide

theorem test_wf_refuses_single_spaced_list_from_D31 :
    Instr.wf (.vld2T1SingleOffset .b8 .omitted 31 0) = false := by decide

theorem test_wf_refuses_double_spaced_list_from_D30 :
    Instr.wf (.vld2T1DoublePost .b8 .omitted 30 0) = false := by decide

theorem test_wf_refuses_four_register_list_from_D29 :
    Instr.wf (.vld2T2Offset .b8 .omitted 29 0) = false := by decide

theorem test_wf_refuses_four_registers_in_an_A1_row :
    Instr.wf (.undefinedA1Align .four .b8 0 0 0) = false := by decide

theorem test_wf_refuses_undefined_size_with_alignment_11 :
    Instr.wf (.undefinedT1Size .single .a256 0 0 0) = false := by decide

theorem test_wf_refuses_base_row_with_reserved_size :
    Instr.wf (.unpredictableA2BasePC .reserved .omitted 0 0) = false := by decide

theorem test_wf_refuses_list_row_with_base_register_15 :
    Instr.wf (.unpredictableA1SingleD31 .b8 .omitted 15 0) = false := by decide

theorem test_wf_refuses_double_list_row_with_D29 :
    Instr.wf (.unpredictableA1DoubleD30 .b8 .omitted 29 0 0) = false := by decide

theorem test_wf_refuses_four_list_row_with_D29 :
    Instr.wf (.unpredictableT2D30 .b8 .omitted 29 0 0) = false := by decide

theorem test_wf_refuses_D29_row_with_reserved_size :
    Instr.wf (.unpredictableT2D29 .reserved .omitted 0 0) = false := by decide

theorem test_wf_accepts_the_highest_lists :
    Instr.wf (.vld2A1SingleOffset .b8 .a128 30 14) = true ∧ Instr.wf (.vld2A1DoubleOffset .b16 .a64 29 14) = true
    ∧ Instr.wf (.vld2A2Index .b32 .a256 28 14 14) = true := by decide

/-! ### Decoding: each word is written out from its encoding diagram, bits [31:23], D, [21:20], Rn, Vd, itype, size,
align, Rm (rules R61 to R64) -/

theorem test_decode_undefinedA1Align : decodeWord .a32
    (0b111101000#9 ++ 0b1#1 ++ 0b10#2 ++ 0b0011#4 ++ 0b0001#4 ++ 0b1001#4 ++ 0b01#2 ++ 0b11#2 ++ 0b0010#4)
    = some (.undefinedA1Align .double .b16 17 3 2) := by decide +kernel

theorem test_decode_undefinedA1Size : decodeWord .a32
    (0b111101000#9 ++ 0b0#1 ++ 0b10#2 ++ 0b1110#4 ++ 0b0010#4 ++ 0b1000#4 ++ 0b11#2 ++ 0b01#2 ++ 0b1101#4)
    = some (.undefinedA1Size .single .a64 2 14 13) := by decide +kernel

theorem test_decode_undefinedA2Size : decodeWord .a32
    (0b111101000#9 ++ 0b1#1 ++ 0b10#2 ++ 0b1111#4 ++ 0b1111#4 ++ 0b0011#4 ++ 0b11#2 ++ 0b11#2 ++ 0b1111#4)
    = some (.undefinedA2Size .a256 31 15 15) := by decide +kernel

theorem test_decode_unpredictableA1BasePC : decodeWord .a32
    (0b111101000#9 ++ 0b1#1 ++ 0b10#2 ++ 0b1111#4 ++ 0b1111#4 ++ 0b1000#4 ++ 0b10#2 ++ 0b10#2 ++ 0b0000#4)
    = some (.unpredictableA1BasePC .single .b32 .a128 31 0) := by decide +kernel

theorem test_decode_unpredictableA2BasePC : decodeWord .a32
    (0b111101000#9 ++ 0b0#1 ++ 0b10#2 ++ 0b1111#4 ++ 0b0100#4 ++ 0b0011#4 ++ 0b00#2 ++ 0b11#2 ++ 0b1101#4)
    = some (.unpredictableA2BasePC .b8 .a256 4 13) := by decide +kernel

theorem test_decode_unpredictableA1SingleD31 : decodeWord .a32
    (0b111101000#9 ++ 0b1#1 ++ 0b10#2 ++ 0b0000#4 ++ 0b1111#4 ++ 0b1000#4 ++ 0b01#2 ++ 0b00#2 ++ 0b1111#4)
    = some (.unpredictableA1SingleD31 .b16 .omitted 0 15) := by decide +kernel

theorem test_decode_unpredictableA1DoubleD30 : decodeWord .a32
    (0b111101000#9 ++ 0b1#1 ++ 0b10#2 ++ 0b0001#4 ++ 0b1110#4 ++ 0b1001#4 ++ 0b00#2 ++ 0b01#2 ++ 0b1101#4)
    = some (.unpredictableA1DoubleD30 .b8 .a64 30 1 13) := by decide +kernel

theorem test_decode_unpredictableA2D30 : decodeWord .a32
    (0b111101000#9 ++ 0b1#1 ++ 0b10#2 ++ 0b1110#4 ++ 0b1110#4 ++ 0b0011#4 ++ 0b10#2 ++ 0b00#2 ++ 0b0100#4)
    = some (.unpredictableA2D30 .b32 .omitted 30 14 4) := by decide +kernel

theorem test_decode_unpredictableA2D29 : decodeWord .a32
    (0b111101000#9 ++ 0b1#1 ++ 0b10#2 ++ 0b0000#4 ++ 0b1101#4 ++ 0b0011#4 ++ 0b00#2 ++ 0b00#2 ++ 0b1111#4)
    = some (.unpredictableA2D29 .b8 .omitted 0 15) := by decide +kernel

theorem test_decode_vld2A1SingleOffset : decodeWord .a32
    (0b111101000#9 ++ 0b0#1 ++ 0b10#2 ++ 0b0000#4 ++ 0b0000#4 ++ 0b1000#4 ++ 0b00#2 ++ 0b00#2 ++ 0b1111#4)
    = some (.vld2A1SingleOffset .b8 .omitted 0 0) := by decide +kernel

theorem test_decode_vld2A1SinglePost : decodeWord .a32
    (0b111101000#9 ++ 0b1#1 ++ 0b10#2 ++ 0b0001#4 ++ 0b1110#4 ++ 0b1000#4 ++ 0b01#2 ++ 0b10#2 ++ 0b1101#4)
    = some (.vld2A1SinglePost .b16 .a128 30 1) := by decide +kernel

theorem test_decode_vld2A1SingleIndex : decodeWord .a32
    (0b111101000#9 ++ 0b0#1 ++ 0b10#2 ++ 0b0010#4 ++ 0b0101#4 ++ 0b1000#4 ++ 0b10#2 ++ 0b00#2 ++ 0b0011#4)
    = some (.vld2A1SingleIndex .b32 .omitted 5 2 3) := by decide +kernel

theorem test_decode_vld2A1DoubleOffset : decodeWord .a32
    (0b111101000#9 ++ 0b1#1 ++ 0b10#2 ++ 0b0010#4 ++ 0b0000#4 ++ 0b1001#4 ++ 0b00#2 ++ 0b01#2 ++ 0b1111#4)
    = some (.vld2A1DoubleOffset .b8 .a64 16 2) := by decide +kernel

theorem test_decode_vld2A1DoublePost : decodeWord .a32
    (0b111101000#9 ++ 0b1#1 ++ 0b10#2 ++ 0b1101#4 ++ 0b1101#4 ++ 0b1001#4 ++ 0b01#2 ++ 0b01#2 ++ 0b1101#4)
    = some (.vld2A1DoublePost .b16 .a64 29 13) := by decide +kernel

theorem test_decode_vld2A1DoubleIndex : decodeWord .a32
    (0b111101000#9 ++ 0b0#1 ++ 0b10#2 ++ 0b0011#4 ++ 0b0000#4 ++ 0b1001#4 ++ 0b10#2 ++ 0b00#2 ++ 0b0011#4)
    = some (.vld2A1DoubleIndex .b32 .omitted 0 3 3) := by decide +kernel

theorem test_decode_vld2A2Offset : decodeWord .a32
    (0b111101000#9 ++ 0b0#1 ++ 0b10#2 ++ 0b0001#4 ++ 0b0100#4 ++ 0b0011#4 ++ 0b01#2 ++ 0b10#2 ++ 0b1111#4)
    = some (.vld2A2Offset .b16 .a128 4 1) := by decide +kernel

theorem test_decode_vld2A2Post : decodeWord .a32
    (0b111101000#9 ++ 0b0#1 ++ 0b10#2 ++ 0b1110#4 ++ 0b0000#4 ++ 0b0011#4 ++ 0b00#2 ++ 0b11#2 ++ 0b1101#4)
    = some (.vld2A2Post .b8 .a256 0 14) := by decide +kernel

theorem test_decode_vld2A2Index : decodeWord .a32
    (0b111101000#9 ++ 0b1#1 ++ 0b10#2 ++ 0b0001#4 ++ 0b1100#4 ++ 0b0011#4 ++ 0b10#2 ++ 0b00#2 ++ 0b0101#4)
    = some (.vld2A2Index .b32 .omitted 28 1 5) := by decide +kernel

theorem test_decode_undefinedT1Align : decodeWord .t32
    (0b111110010#9 ++ 0b1#1 ++ 0b10#2 ++ 0b0011#4 ++ 0b0001#4 ++ 0b1001#4 ++ 0b01#2 ++ 0b11#2 ++ 0b0010#4)
    = some (.undefinedT1Align .double .b16 17 3 2) := by decide +kernel

theorem test_decode_undefinedT1Size : decodeWord .t32
    (0b111110010#9 ++ 0b0#1 ++ 0b10#2 ++ 0b1110#4 ++ 0b0010#4 ++ 0b1000#4 ++ 0b11#2 ++ 0b01#2 ++ 0b1101#4)
    = some (.undefinedT1Size .single .a64 2 14 13) := by decide +kernel

theorem test_decode_undefinedT2Size : decodeWord .t32
    (0b111110010#9 ++ 0b1#1 ++ 0b10#2 ++ 0b1111#4 ++ 0b1111#4 ++ 0b0011#4 ++ 0b11#2 ++ 0b11#2 ++ 0b1111#4)
    = some (.undefinedT2Size .a256 31 15 15) := by decide +kernel

theorem test_decode_unpredictableT1BasePC : decodeWord .t32
    (0b111110010#9 ++ 0b1#1 ++ 0b10#2 ++ 0b1111#4 ++ 0b1111#4 ++ 0b1000#4 ++ 0b10#2 ++ 0b10#2 ++ 0b0000#4)
    = some (.unpredictableT1BasePC .single .b32 .a128 31 0) := by decide +kernel

theorem test_decode_unpredictableT2BasePC : decodeWord .t32
    (0b111110010#9 ++ 0b0#1 ++ 0b10#2 ++ 0b1111#4 ++ 0b0100#4 ++ 0b0011#4 ++ 0b00#2 ++ 0b11#2 ++ 0b1101#4)
    = some (.unpredictableT2BasePC .b8 .a256 4 13) := by decide +kernel

theorem test_decode_unpredictableT1SingleD31 : decodeWord .t32
    (0b111110010#9 ++ 0b1#1 ++ 0b10#2 ++ 0b0000#4 ++ 0b1111#4 ++ 0b1000#4 ++ 0b01#2 ++ 0b00#2 ++ 0b1111#4)
    = some (.unpredictableT1SingleD31 .b16 .omitted 0 15) := by decide +kernel

theorem test_decode_unpredictableT1DoubleD30 : decodeWord .t32
    (0b111110010#9 ++ 0b1#1 ++ 0b10#2 ++ 0b0001#4 ++ 0b1110#4 ++ 0b1001#4 ++ 0b00#2 ++ 0b01#2 ++ 0b1101#4)
    = some (.unpredictableT1DoubleD30 .b8 .a64 30 1 13) := by decide +kernel

theorem test_decode_unpredictableT2D30 : decodeWord .t32
    (0b111110010#9 ++ 0b1#1 ++ 0b10#2 ++ 0b1110#4 ++ 0b1110#4 ++ 0b0011#4 ++ 0b10#2 ++ 0b00#2 ++ 0b0100#4)
    = some (.unpredictableT2D30 .b32 .omitted 30 14 4) := by decide +kernel

theorem test_decode_unpredictableT2D29 : decodeWord .t32
    (0b111110010#9 ++ 0b1#1 ++ 0b10#2 ++ 0b0000#4 ++ 0b1101#4 ++ 0b0011#4 ++ 0b00#2 ++ 0b00#2 ++ 0b1111#4)
    = some (.unpredictableT2D29 .b8 .omitted 0 15) := by decide +kernel

theorem test_decode_vld2T1SingleOffset : decodeWord .t32
    (0b111110010#9 ++ 0b0#1 ++ 0b10#2 ++ 0b0000#4 ++ 0b0000#4 ++ 0b1000#4 ++ 0b00#2 ++ 0b00#2 ++ 0b1111#4)
    = some (.vld2T1SingleOffset .b8 .omitted 0 0) := by decide +kernel

theorem test_decode_vld2T1SinglePost : decodeWord .t32
    (0b111110010#9 ++ 0b1#1 ++ 0b10#2 ++ 0b0001#4 ++ 0b1110#4 ++ 0b1000#4 ++ 0b01#2 ++ 0b10#2 ++ 0b1101#4)
    = some (.vld2T1SinglePost .b16 .a128 30 1) := by decide +kernel

theorem test_decode_vld2T1SingleIndex : decodeWord .t32
    (0b111110010#9 ++ 0b0#1 ++ 0b10#2 ++ 0b0010#4 ++ 0b0101#4 ++ 0b1000#4 ++ 0b10#2 ++ 0b00#2 ++ 0b0011#4)
    = some (.vld2T1SingleIndex .b32 .omitted 5 2 3) := by decide +kernel

theorem test_decode_vld2T1DoubleOffset : decodeWord .t32
    (0b111110010#9 ++ 0b1#1 ++ 0b10#2 ++ 0b0010#4 ++ 0b0000#4 ++ 0b1001#4 ++ 0b00#2 ++ 0b01#2 ++ 0b1111#4)
    = some (.vld2T1DoubleOffset .b8 .a64 16 2) := by decide +kernel

theorem test_decode_vld2T1DoublePost : decodeWord .t32
    (0b111110010#9 ++ 0b1#1 ++ 0b10#2 ++ 0b1101#4 ++ 0b1101#4 ++ 0b1001#4 ++ 0b01#2 ++ 0b01#2 ++ 0b1101#4)
    = some (.vld2T1DoublePost .b16 .a64 29 13) := by decide +kernel

theorem test_decode_vld2T1DoubleIndex : decodeWord .t32
    (0b111110010#9 ++ 0b0#1 ++ 0b10#2 ++ 0b0011#4 ++ 0b0000#4 ++ 0b1001#4 ++ 0b10#2 ++ 0b00#2 ++ 0b0011#4)
    = some (.vld2T1DoubleIndex .b32 .omitted 0 3 3) := by decide +kernel

theorem test_decode_vld2T2Offset : decodeWord .t32
    (0b111110010#9 ++ 0b0#1 ++ 0b10#2 ++ 0b0001#4 ++ 0b0100#4 ++ 0b0011#4 ++ 0b01#2 ++ 0b10#2 ++ 0b1111#4)
    = some (.vld2T2Offset .b16 .a128 4 1) := by decide +kernel

theorem test_decode_vld2T2Post : decodeWord .t32
    (0b111110010#9 ++ 0b0#1 ++ 0b10#2 ++ 0b1110#4 ++ 0b0000#4 ++ 0b0011#4 ++ 0b00#2 ++ 0b11#2 ++ 0b1101#4)
    = some (.vld2T2Post .b8 .a256 0 14) := by decide +kernel

theorem test_decode_vld2T2Index : decodeWord .t32
    (0b111110010#9 ++ 0b1#1 ++ 0b10#2 ++ 0b0001#4 ++ 0b1100#4 ++ 0b0011#4 ++ 0b10#2 ++ 0b00#2 ++ 0b0101#4)
    = some (.vld2T2Index .b32 .omitted 28 1 5) := by decide +kernel

theorem test_decode_rejects_other_words :
    decodeWord .t32 0xF420080F#32 = none ∧ decodeWord .a32 0xF920080F#32 = none ∧ decodeWord .a32 0xF400080F#32 = none
    ∧ decodeWord .a32 0xF430080F#32 = none ∧ decodeWord .a32 0xF420070F#32 = none := by decide +kernel

theorem test_decode_bytes_of_both_sets :
    decode .a32 [0x0F, 0x08, 0x20, 0xF4] = .ok (.vld2A1SingleOffset .b8 .omitted 0 0, [])
    ∧ decode .t32 [0x20, 0xF9, 0x0F, 0x08, 0x00] = .ok (.vld2T1SingleOffset .b8 .omitted 0 0, [0x00])
    ∧ decode .t32 [0x20, 0xF9] = .error .truncated ∧ decode .t32 [0x00, 0x46] = .error .notThisInstruction := by
  decide +kernel

theorem test_decode_table_words :
    decodeTableWord 32 0xF424039D = some (.vld2A2Post .b32 .a64 0 4)
    ∧ decodeTableWord 32 0xF924A3B5 = some (.vld2T2Index .b32 .a256 10 4 5)
    ∧ decodeTableWord 32 0 = none := by decide +kernel

/-! ### One step of every instruction -/

theorem test_step_undefinedA1Align : stopOf (step (bed.withFetchWord 32 0xF4631972)) = some (.fault .undefined) := by
  decide +kernel

theorem test_step_undefinedA1Size : stopOf (step (bed.withFetchWord 32 0xF42E28DD)) = some (.fault .undefined) := by
  decide +kernel

theorem test_step_undefinedA2Size : stopOf (step (bed.withFetchWord 32 0xF46FF3FF)) = some (.fault .undefined) := by
  decide +kernel

theorem test_step_unpredictableA1BasePC : stopOf (step (bed.withFetchWord 32 0xF46FF8A0)) = some (.refusal (.unpredictable .baseIsPC)) := by
  decide +kernel

theorem test_step_unpredictableA2BasePC : stopOf (step (bed.withFetchWord 32 0xF42F433D)) = some (.refusal (.unpredictable .baseIsPC)) := by
  decide +kernel

theorem test_step_unpredictableA1SingleD31 : stopOf (step (bed.withFetchWord 32 0xF460F84F)) = some (.refusal (.unpredictable .listPastD31)) := by
  decide +kernel

theorem test_step_unpredictableA1DoubleD30 : stopOf (step (bed.withFetchWord 32 0xF461E91D)) = some (.refusal (.unpredictable .listPastD31)) := by
  decide +kernel

theorem test_step_unpredictableA2D30 : stopOf (step (bed.withFetchWord 32 0xF46EE384)) = some (.refusal (.unpredictable .listPastD31)) := by
  decide +kernel

theorem test_step_unpredictableA2D29 : stopOf (step (bed.withFetchWord 32 0xF460D30F)) = some (.refusal (.unpredictable .listPastD31)) := by
  decide +kernel

theorem test_step_vld2A1SingleOffset : nextHas (step (bed.withFetchWord 32 0xF420080F)) (fun t =>
    t.readD 0 == 0x0E0C0A0806040200#64 && t.readD 1 == 0x0F0D0B0907050301#64
    && t.readD 4 == filler && t.readR 0 == 0x00001000#32 && t.pc == 4#32) = true := by decide +kernel

theorem test_step_vld2A1SinglePost : nextHas (step (bed.withFetchWord 32 0xF461E86D)) (fun t =>
    t.readD 30 == 0x1D1C191815141110#64 && t.readD 31 == 0x1F1E1B1A17161312#64
    && t.readD 29 == filler && t.readR 1 == 0x00001020#32 && t.pc == 4#32) = true := by decide +kernel

theorem test_step_vld2A1SingleIndex : nextHas (step (bed.withFetchWord 32 0xF4225883)) (fun t =>
    t.readD 5 == 0x131211100B0A0908#64 && t.readD 6 == 0x171615140F0E0D0C#64
    && t.readD 9 == filler && t.readR 2 == 0x0000200C#32 && t.pc == 4#32) = true := by decide +kernel

theorem test_step_vld2A1DoubleOffset : nextHas (step (bed.withFetchWord 32 0xF462091F)) (fun t =>
    t.readD 16 == 0x161412100E0C0A08#64 && t.readD 18 == 0x171513110F0D0B09#64
    && t.readD 20 == filler && t.readR 2 == 0x00001008#32 && t.pc == 4#32) = true := by decide +kernel

theorem test_step_vld2A1DoublePost : nextHas (step (bed.withFetchWord 32 0xF46DD95D)) (fun t =>
    t.readD 29 == 0x4D4C494845444140#64 && t.readD 31 == 0x4F4E4B4A47464342#64
    && t.readD 30 == filler && t.readR 13 == 0x00001050#32 && t.pc == 4#32) = true := by decide +kernel

theorem test_step_vld2A1DoubleIndex : nextHas (step (bed.withFetchWord 32 0xF4230983)) (fun t =>
    t.readD 0 == 0x0F0E0D0C07060504#64 && t.readD 2 == 0x131211100B0A0908#64
    && t.readD 4 == filler && t.readR 3 == 0x00002008#32 && t.pc == 4#32) = true := by decide +kernel

theorem test_step_vld2A2Offset : nextHas (step (bed.withFetchWord 32 0xF421436F)) (fun t =>
    t.readD 4 == 0x1D1C191815141110#64 && t.readD 5 == 0x2D2C292825242120#64 && t.readD 6 == 0x1F1E1B1A17161312#64 && t.readD 7 == 0x2F2E2B2A27262322#64
    && t.readD 8 == filler && t.readR 1 == 0x00001010#32 && t.pc == 4#32) = true := by decide +kernel

theorem test_step_vld2A2Post : nextHas (step (bed.withFetchWord 32 0xF42E033D)) (fun t =>
    t.readD 0 == 0x2E2C2A2826242220#64 && t.readD 1 == 0x3E3C3A3836343230#64 && t.readD 2 == 0x2F2D2B2927252321#64 && t.readD 3 == 0x3F3D3B3937353331#64
    && t.readD 4 == filler && t.readR 14 == 0x00001040#32 && t.pc == 4#32) = true := by decide +kernel

theorem test_step_vld2A2Index : nextHas (step (bed.withFetchWord 32 0xF461C385)) (fun t =>
    t.readD 28 == 0x1B1A191813121110#64 && t.readD 29 == 0x2B2A292823222120#64 && t.readD 30 == 0x1F1E1D1C17161514#64 && t.readD 31 == 0x2F2E2D2C27262524#64
    && t.readD 27 == filler && t.readR 1 == 0x00001000#32 && t.pc == 4#32) = true := by decide +kernel

theorem test_step_undefinedT1Align : stopOf (step (bedT.withFetchWord 32 0xF9631972)) = some (.fault .undefined) := by
  decide +kernel

theorem test_step_undefinedT1Size : stopOf (step (bedT.withFetchWord 32 0xF92E28DD)) = some (.fault .undefined) := by
  decide +kernel

theorem test_step_undefinedT2Size : stopOf (step (bedT.withFetchWord 32 0xF96FF3FF)) = some (.fault .undefined) := by
  decide +kernel

theorem test_step_unpredictableT1BasePC : stopOf (step (bedT.withFetchWord 32 0xF96FF8A0)) = some (.refusal (.unpredictable .baseIsPC)) := by
  decide +kernel

theorem test_step_unpredictableT2BasePC : stopOf (step (bedT.withFetchWord 32 0xF92F433D)) = some (.refusal (.unpredictable .baseIsPC)) := by
  decide +kernel

theorem test_step_unpredictableT1SingleD31 : stopOf (step (bedT.withFetchWord 32 0xF960F84F)) = some (.refusal (.unpredictable .listPastD31)) := by
  decide +kernel

theorem test_step_unpredictableT1DoubleD30 : stopOf (step (bedT.withFetchWord 32 0xF961E91D)) = some (.refusal (.unpredictable .listPastD31)) := by
  decide +kernel

theorem test_step_unpredictableT2D30 : stopOf (step (bedT.withFetchWord 32 0xF96EE384)) = some (.refusal (.unpredictable .listPastD31)) := by
  decide +kernel

theorem test_step_unpredictableT2D29 : stopOf (step (bedT.withFetchWord 32 0xF960D30F)) = some (.refusal (.unpredictable .listPastD31)) := by
  decide +kernel

theorem test_step_vld2T1SingleOffset : nextHas (step (bedT.withFetchWord 32 0xF920080F)) (fun t =>
    t.readD 0 == 0x0E0C0A0806040200#64 && t.readD 1 == 0x0F0D0B0907050301#64
    && t.readD 4 == filler && t.readR 0 == 0x00001000#32 && t.pc == 4#32) = true := by decide +kernel

theorem test_step_vld2T1SinglePost : nextHas (step (bedT.withFetchWord 32 0xF961E86D)) (fun t =>
    t.readD 30 == 0x1D1C191815141110#64 && t.readD 31 == 0x1F1E1B1A17161312#64
    && t.readD 29 == filler && t.readR 1 == 0x00001020#32 && t.pc == 4#32) = true := by decide +kernel

theorem test_step_vld2T1SingleIndex : nextHas (step (bedT.withFetchWord 32 0xF9225883)) (fun t =>
    t.readD 5 == 0x131211100B0A0908#64 && t.readD 6 == 0x171615140F0E0D0C#64
    && t.readD 9 == filler && t.readR 2 == 0x0000200C#32 && t.pc == 4#32) = true := by decide +kernel

theorem test_step_vld2T1DoubleOffset : nextHas (step (bedT.withFetchWord 32 0xF962091F)) (fun t =>
    t.readD 16 == 0x161412100E0C0A08#64 && t.readD 18 == 0x171513110F0D0B09#64
    && t.readD 20 == filler && t.readR 2 == 0x00001008#32 && t.pc == 4#32) = true := by decide +kernel

theorem test_step_vld2T1DoublePost : nextHas (step (bedT.withFetchWord 32 0xF96DD95D)) (fun t =>
    t.readD 29 == 0x4D4C494845444140#64 && t.readD 31 == 0x4F4E4B4A47464342#64
    && t.readD 30 == filler && t.readR 13 == 0x00001050#32 && t.pc == 4#32) = true := by decide +kernel

theorem test_step_vld2T1DoubleIndex : nextHas (step (bedT.withFetchWord 32 0xF9230983)) (fun t =>
    t.readD 0 == 0x0F0E0D0C07060504#64 && t.readD 2 == 0x131211100B0A0908#64
    && t.readD 4 == filler && t.readR 3 == 0x00002008#32 && t.pc == 4#32) = true := by decide +kernel

theorem test_step_vld2T2Offset : nextHas (step (bedT.withFetchWord 32 0xF921436F)) (fun t =>
    t.readD 4 == 0x1D1C191815141110#64 && t.readD 5 == 0x2D2C292825242120#64 && t.readD 6 == 0x1F1E1B1A17161312#64 && t.readD 7 == 0x2F2E2B2A27262322#64
    && t.readD 8 == filler && t.readR 1 == 0x00001010#32 && t.pc == 4#32) = true := by decide +kernel

theorem test_step_vld2T2Post : nextHas (step (bedT.withFetchWord 32 0xF92E033D)) (fun t =>
    t.readD 0 == 0x2E2C2A2826242220#64 && t.readD 1 == 0x3E3C3A3836343230#64 && t.readD 2 == 0x2F2D2B2927252321#64 && t.readD 3 == 0x3F3D3B3937353331#64
    && t.readD 4 == filler && t.readR 14 == 0x00001040#32 && t.pc == 4#32) = true := by decide +kernel

theorem test_step_vld2T2Index : nextHas (step (bedT.withFetchWord 32 0xF961C385)) (fun t =>
    t.readD 28 == 0x1B1A191813121110#64 && t.readD 29 == 0x2B2A292823222120#64 && t.readD 30 == 0x1F1E1D1C17161514#64 && t.readD 31 == 0x2F2E2D2C27262524#64
    && t.readD 27 == filler && t.readR 1 == 0x00001000#32 && t.pc == 4#32) = true := by decide +kernel

/-! ### Vectors of 95_test_vectors.md on the checks and the byte order -/

theorem test_big_endian_loads :
    nextHas (exec (.vld2A1SingleOffset .b16 .omitted 0 0) { bed with bigEndian := true }) (fun t =>
      t.readD 0 == 0x0C0D080904050001#64 && t.readD 1 == 0x0E0F0A0B06070203#64) = true
    ∧ nextHas (exec (.vld2A1SingleOffset .b32 .omitted 0 0) { bed with bigEndian := true }) (fun t =>
      t.readD 0 == 0x08090A0B00010203#64 && t.readD 1 == 0x0C0D0E0F04050607#64) = true := by decide +kernel

theorem test_unaligned_base_loads_where_not_strict :
    nextHas (exec (.vld2A1SinglePost .b32 .omitted 0 4) bed) (fun t =>
      t.readD 0 == 0x0C0B0A0904030201#64 && t.readD 1 == 0x100F0E0D08070605#64) = true
    ∧ stopOf (exec (.vld2A1SinglePost .b32 .omitted 0 4) { bed with strictAlign := true })
      = some (.fault (.alignmentFault 0x1001#32)) := by decide +kernel

theorem test_stops_of_the_checks :
    stopOf (exec (.vld2A1SinglePost .b8 .omitted 0 7) bed) = some (.refusal .addressWrap)
    ∧ abortHas (exec (.vld2A1SingleIndex .b16 .omitted 0 6 0) bed) 0x1080#32 (fun t =>
      t.gpr == bed.gpr && t.pc == bed.pc && t.readD 2 == filler && t.readD 31 == filler) = true
    ∧ stopOf (exec (.vld2A1DoubleOffset .b8 .a64 0 3) bed) = some (.fault (.alignmentFault 0x1004#32))
    ∧ stopOf (exec (.vld2A2Offset .b8 .a256 0 1) bed) = some (.fault (.alignmentFault 0x1010#32))
    ∧ stopOf (exec (.vld2A1DoubleOffset .b8 .a64 0 3) (bedWith .hypTrap)) = some (.fault .hypTrap)
    ∧ stopOf (exec (.vld2A2Offset .b8 .a256 0 1) (bedWith .undefined)) = some (.fault .undefined) := by decide +kernel

theorem test_failed_condition_of_an_IT_block :
    nextHas (exec (.vld2T1SinglePost .b16 .omitted 0 0) bedFailed) (fun t =>
      t.dreg == bed.dreg && t.gpr == bed.gpr && t.pc == 4#32 && t.itstate == 0#8) = true
    ∧ nextHas (exec (.vld2T1SinglePost .b16 .omitted 0 0) { bedFailed with flagZ := true }) (fun t =>
      t.readD 0 == 0x0D0C090805040100#64 && t.readR 0 == 0x1010#32 && t.itstate == 0#8) = true := by decide +kernel

/-! ### Witnesses: a concrete state and operands that meet the hypotheses of each statement -/

/-- A load of the test state is ready where the decidable checks say so. -/
theorem loadReady_of_checks {s : State} {n : Fin Config.numR} {al eb len : Nat}
    (h : s.simdAccess = .enabled ∧ (s.readR n).toNat % al = 0 ∧ (s.readR n).toNat % eb = 0
      ∧ (s.readR n).toNat + len ≤ Config.addressSpace ∧ s.touchesDevice (s.readR n).toNat len = false
      ∧ (s.mem.readBytes (s.readR n).toNat len).isSome = true) : LoadReady s n al eb len :=
  ⟨h.1, h.2.1, fun _ => h.2.2.1, h.2.2.2.1, h.2.2.2.2.1, readable_of_readBytes h.2.2.2.2.2⟩

/-- A state whose next step runs a load. -/
def bedProgram : State := bed.withFetchWord 32 0xF420080F

theorem witness_StepKeepsInvariant : bedProgram.Inv ∧ ∃ t, step bedProgram = .next t := by
  refine ⟨⟨by decide +kernel, by decide +kernel, by decide +kernel⟩, ?_⟩
  obtain ⟨t, h, -⟩ := exists_next (o := step bedProgram) (p := fun _ => true) (by decide +kernel)
  exact ⟨t, h⟩

theorem witness_DecodeReadsBackEveryEncoding :
    Instr.wf (.vld2T2Index .b32 .a256 28 14 14) = true ∧ Instr.wf (.undefinedA2Size .a256 31 15 15) = true
    ∧ Instr.wf (.unpredictableA1DoubleD30 .b8 .a128 30 14 15) = true := by decide

theorem witness_DecodedWordIsTheEncodingOfItsInstruction :
    decodeWord .a32 0xF461C382#32 = some (.vld2A2Index .b32 .omitted 28 1 2) := by decide +kernel

theorem witness_DecodeOfA1FollowsItsPseudocode :
    let w := 0xF460D90F#32
    BitVec.extractLsb' 23 9 w = 0b111101000#9 ∧ BitVec.extractLsb' 20 2 w = 0b10#2 ∧ BitVec.extractLsb' 8 4 w = 0b1001#4 := by
  decide

theorem witness_DecodeOfA1FollowsItsPseudocode_single :
    let w := 0xF460E80F#32
    BitVec.extractLsb' 23 9 w = 0b111101000#9 ∧ BitVec.extractLsb' 20 2 w = 0b10#2 ∧ BitVec.extractLsb' 8 4 w = 0b1000#4 := by
  decide

theorem witness_DecodeOfA2FollowsItsPseudocode :
    let w := 0xF460C30F#32
    BitVec.extractLsb' 23 9 w = 0b111101000#9 ∧ BitVec.extractLsb' 20 2 w = 0b10#2 ∧ BitVec.extractLsb' 8 4 w = 0b0011#4 := by
  decide

theorem witness_DecodeOfT1FollowsItsPseudocode :
    let w := 0xF92D895D#32
    BitVec.extractLsb' 23 9 w = 0b111110010#9 ∧ BitVec.extractLsb' 20 2 w = 0b10#2 ∧ BitVec.extractLsb' 8 4 w = 0b1001#4 := by
  decide

theorem witness_DecodeOfT1FollowsItsPseudocode_single :
    let w := 0xF92008CF#32
    BitVec.extractLsb' 23 9 w = 0b111110010#9 ∧ BitVec.extractLsb' 20 2 w = 0b10#2 ∧ BitVec.extractLsb' 8 4 w = 0b1000#4 := by
  decide

theorem witness_DecodeOfT2FollowsItsPseudocode :
    let w := 0xF924A3B5#32
    BitVec.extractLsb' 23 9 w = 0b111110010#9 ∧ BitVec.extractLsb' 20 2 w = 0b10#2 ∧ BitVec.extractLsb' 8 4 w = 0b0011#4 := by
  decide

theorem witness_T32FormsActAsA32Forms :
    bed.iset = .a32 ∧ bed.itstate.extractLsb' 0 4 = 0#4
    ∧ nextHas (exec (classify ⟨.a32, .single, .b8, .omitted, 0, 0, 15⟩) bed) (fun _ => true) = true := by decide +kernel

theorem witness_SingleSpacedA32LoadsDeinterleave :
    elementBytes .b16 = some 2 ∧ AlignField.a64 ≠ .a256 ∧ (30 : DReg).val ≤ 30 ∧ bed.iset = .a32
    ∧ LoadReady bed 0 (alignmentBytes .a64) 2 16 :=
  ⟨rfl, by decide, by decide, rfl, loadReady_of_checks (by decide +kernel)⟩

theorem witness_DoubleSpacedA32LoadsDeinterleave :
    elementBytes .b8 = some 1 ∧ AlignField.a128 ≠ .a256 ∧ (29 : DReg).val ≤ 29 ∧ bed.iset = .a32
    ∧ LoadReady bed 1 (alignmentBytes .a128) 1 16 :=
  ⟨rfl, by decide, by decide, rfl, loadReady_of_checks (by decide +kernel)⟩

theorem witness_FourRegisterA32LoadsDeinterleave :
    elementBytes .b32 = some 4 ∧ (28 : DReg).val ≤ 28 ∧ bed.iset = .a32
    ∧ LoadReady bed 14 (alignmentBytes .a256) 4 32 :=
  ⟨rfl, by decide, rfl, loadReady_of_checks (by decide +kernel)⟩

theorem witness_SingleSpacedT32LoadsDeinterleave :
    elementBytes .b32 = some 4 ∧ AlignField.a64 ≠ .a256 ∧ (30 : DReg).val ≤ 30 ∧ bedT.iset = .t32
    ∧ bedT.conditionPassed = true ∧ LoadReady bedT 0 (alignmentBytes .a64) 4 16 :=
  ⟨rfl, by decide, by decide, rfl, by decide +kernel, loadReady_of_checks (by decide +kernel)⟩

theorem witness_DoubleSpacedT32LoadsDeinterleave :
    elementBytes .b16 = some 2 ∧ AlignField.omitted ≠ .a256 ∧ (29 : DReg).val ≤ 29 ∧ bedT.iset = .t32
    ∧ bedT.conditionPassed = true ∧ LoadReady bedT 13 (alignmentBytes .omitted) 2 16 :=
  ⟨rfl, by decide, by decide, rfl, by decide +kernel, loadReady_of_checks (by decide +kernel)⟩

theorem witness_FourRegisterT32LoadsDeinterleave :
    elementBytes .b8 = some 1 ∧ (28 : DReg).val ≤ 28 ∧ bedT.iset = .t32 ∧ bedT.conditionPassed = true
    ∧ LoadReady bedT 0 (alignmentBytes .a256) 1 32 :=
  ⟨rfl, by decide, rfl, by decide +kernel, loadReady_of_checks (by decide +kernel)⟩

theorem witness_FailedConditionOnlyAdvances :
    Instr.wf (.vld2T1SinglePost .b16 .omitted 0 0) = true ∧ kindOf (.vld2T1SinglePost .b16 .omitted 0 0) = .load
    ∧ Instr.iset (.vld2T1SinglePost .b16 .omitted 0 0) = .t32 ∧ bedFailed.iset = .t32
    ∧ bedFailed.conditionPassed = false ∧ bedFailed.simdAccess = .enabled := by decide +kernel

theorem witness_FailedConditionOfAStoppingWord_undefined :
    Instr.wf (.undefinedT2Size .omitted 0 0 15) = true ∧ Instr.iset (.undefinedT2Size .omitted 0 0 15) = .t32
    ∧ bedFailed.iset = .t32 ∧ bedFailed.conditionPassed = false ∧ kindOf (.undefinedT2Size .omitted 0 0 15) ≠ .load := by
  decide +kernel

theorem witness_FailedConditionOfAStoppingWord_notEnabled :
    let s := { bedFailed with simdRule := [(SimdContext.reset, SimdAccess.hypTrap)] }
    Instr.wf (.vld2T1SinglePost .b16 .omitted 0 0) = true ∧ Instr.iset (.vld2T1SinglePost .b16 .omitted 0 0) = .t32
    ∧ s.iset = .t32 ∧ s.conditionPassed = false ∧ s.simdAccess ≠ .enabled := by decide +kernel

/-- The test state whose condition fails, with the choice that the first word that would stop meets. -/
def bedChoice (stops : Bool) : State := { bedFailed with condFailChoices := [stops] }

theorem witness_StoppingT32WordsCompleteWhereTheirConditionFails :
    Instr.wf (.undefinedT1Align .single .b8 0 0 15) = true ∧ Instr.wf (.undefinedT1Size .double .a64 0 0 15) = true
    ∧ Instr.wf (.undefinedT2Size .a256 31 15 0) = true ∧ Instr.wf (.unpredictableT1BasePC .single .b8 .omitted 0 15) = true
    ∧ Instr.wf (.unpredictableT2BasePC .b8 .omitted 0 15) = true ∧ Instr.wf (.unpredictableT1SingleD31 .b8 .omitted 0 15) = true
    ∧ Instr.wf (.unpredictableT1DoubleD30 .b8 .omitted 30 0 15) = true ∧ Instr.wf (.unpredictableT2D30 .b8 .omitted 31 0 15) = true
    ∧ Instr.wf (.unpredictableT2D29 .b8 .omitted 0 15) = true ∧ Instr.iset (.unpredictableT2D29 .b8 .omitted 0 15) = .t32
    ∧ kindOf (.unpredictableT2D29 .b8 .omitted 0 15) ≠ .load ∧ (bedChoice false).iset = .t32
    ∧ (bedChoice false).conditionPassed = false
    ∧ (bedChoice false).condFailChoices[(bedChoice false).freeIndex]? = some false := by decide +kernel

theorem witness_StoppingT32WordsCompleteWhereTheirConditionFails_notEnabled :
    let s := { bedChoice false with simdRule := [(SimdContext.reset, SimdAccess.undefined)] }
    Instr.wf (.vld2T2Post .b8 .omitted 28 0) = true ∧ Instr.iset (.vld2T2Post .b8 .omitted 28 0) = .t32 ∧ s.iset = .t32
    ∧ s.conditionPassed = false ∧ s.simdAccess ≠ .enabled ∧ s.condFailChoices[s.freeIndex]? = some false := by decide +kernel

theorem witness_StoppingT32WordsStopWhereTheChoiceSaysSo :
    Instr.wf (.undefinedT2Size .a256 31 15 0) = true ∧ Instr.iset (.undefinedT2Size .a256 31 15 0) = .t32
    ∧ kindOf (.undefinedT2Size .a256 31 15 0) ≠ .load ∧ (bedChoice true).iset = .t32
    ∧ (bedChoice true).conditionPassed = false
    ∧ (bedChoice true).condFailChoices[(bedChoice true).freeIndex]? = some true := by decide +kernel

theorem witness_UndefinedWordsRaiseUndefined :
    Instr.wf (.undefinedA1Align .double .b8 31 15 0) = true ∧ kindOf (.undefinedA1Align .double .b8 31 15 0) = .undefined
    ∧ bed.iset = Instr.iset (.undefinedA1Align .double .b8 31 15 0) ∧ bed.conditionPassed = true
    ∧ bed.simdAccess ≠ .hypTrap := by decide +kernel

theorem witness_UndefinedWordsRaiseUndefined_T32 :
    Instr.wf (.undefinedT1Size .single .a128 0 0 15) = true ∧ kindOf (.undefinedT1Size .single .a128 0 0 15) = .undefined
    ∧ bedT.iset = Instr.iset (.undefinedT1Size .single .a128 0 0 15) ∧ bedT.conditionPassed = true
    ∧ bedT.simdAccess ≠ .hypTrap := by decide +kernel

theorem witness_UnpredictableWordsAreRefused_base :
    Instr.wf (.unpredictableA2BasePC .b8 .a256 28 15) = true ∧ kindOf (.unpredictableA2BasePC .b8 .a256 28 15) = .unpredictable
    ∧ bed.iset = Instr.iset (.unpredictableA2BasePC .b8 .a256 28 15) ∧ bed.conditionPassed = true
    ∧ bed.simdAccess = .enabled := by decide +kernel

theorem witness_UnpredictableWordsAreRefused_list :
    Instr.wf (.unpredictableT2D29 .b8 .omitted 14 15) = true ∧ kindOf (.unpredictableT2D29 .b8 .omitted 14 15) = .unpredictable
    ∧ bedT.iset = Instr.iset (.unpredictableT2D29 .b8 .omitted 14 15) ∧ bedT.conditionPassed = true
    ∧ bedT.simdAccess = .enabled := by decide +kernel

theorem witness_DecodeStopAndEnableStopAreBothAdmitted :
    Instr.wf (.undefinedA1Size .single .omitted 0 0 15) = true ∧ Instr.wf (.unpredictableA1BasePC .single .b8 .omitted 0 15) = true
    ∧ (bedWith .hypTrap).iset = .a32 ∧ (bedWith .undefined).iset = .a32
    ∧ (bedWith .hypTrap).conditionPassed = true ∧ (bedWith .undefined).conditionPassed = true
    ∧ (bedWith .hypTrap).simdAccess = .hypTrap ∧ (bedWith .undefined).simdAccess = .undefined
    ∧ kindOf (.undefinedA1Size .single .omitted 0 0 15) = .undefined
    ∧ kindOf (.unpredictableA1BasePC .single .b8 .omitted 0 15) = .unpredictable
    ∧ Instr.iset (.undefinedA1Size .single .omitted 0 0 15) = .a32
    ∧ Instr.iset (.unpredictableA1BasePC .single .b8 .omitted 0 15) = .a32 := by decide +kernel

theorem witness_EnableCheckStopsEveryLoad :
    Instr.wf (.vld2A1SingleOffset .b8 .a64 0 3) = true ∧ kindOf (.vld2A1SingleOffset .b8 .a64 0 3) = .load
    ∧ Instr.iset (.vld2A1SingleOffset .b8 .a64 0 3) = .a32 ∧ (bedWith .hypTrap).iset = .a32
    ∧ (bedWith .undefined).iset = .a32 ∧ (bedWith .hypTrap).conditionPassed = true
    ∧ (bedWith .undefined).conditionPassed = true ∧ (bedWith .hypTrap).simdAccess = .hypTrap
    ∧ (bedWith .undefined).simdAccess = .undefined := by decide +kernel

theorem witness_MisalignedBaseFaultsBeforeAnyAccess :
    let i : Instr := .vld2A1SingleOffset .b8 .a64 0 3
    i.wf = true ∧ kindOf i = .load ∧ i.fields.n = regField 3 ∧ bed.iset = i.iset ∧ bed.conditionPassed = true
    ∧ bed.simdAccess = .enabled ∧ (bed.readR 3).toNat % alignmentBytes i.fields.align ≠ 0 := by decide +kernel

theorem witness_StrictAlignmentFaultsOnTheElementSize :
    let i : Instr := .vld2A1DoublePost .b16 .omitted 0 4
    let s : State := { bed with strictAlign := true }
    i.wf = true ∧ kindOf i = .load ∧ i.fields.n = regField 4 ∧ s.iset = i.iset ∧ s.conditionPassed = true
    ∧ s.simdAccess = .enabled ∧ elementBytes i.fields.size = some 2
    ∧ (s.readR 4).toNat % alignmentBytes i.fields.align = 0
    ∧ (s.readR 4).toNat + 16 * pairCount i.fields.shape ≤ Config.addressSpace
    ∧ s.touchesDevice (s.readR 4).toNat (16 * pairCount i.fields.shape) = false
    ∧ s.strictAlign = true ∧ (s.readR 4).toNat % 2 ≠ 0 := by decide +kernel

theorem witness_FootprintPastTheTopIsRefused :
    let i : Instr := .vld2A2Offset .b8 .a128 28 5
    i.wf = true ∧ kindOf i = .load ∧ i.fields.n = regField 5 ∧ bed.iset = i.iset ∧ bed.conditionPassed = true
    ∧ bed.simdAccess = .enabled ∧ (bed.readR 5).toNat % alignmentBytes i.fields.align = 0
    ∧ 2 ^ 32 < (bed.readR 5).toNat + 16 * pairCount i.fields.shape := by decide +kernel

/-- The last byte of the footprint is a device's. -/
theorem witness_DeviceFootprintIsRefused :
    let i : Instr := .vld2A2Offset .b8 .a256 28 0
    let s : State := { bed with devices := [⟨0x101F, 1⟩] }
    i.wf = true ∧ kindOf i = .load ∧ i.fields.n = regField 0 ∧ s.iset = i.iset ∧ s.conditionPassed = true
    ∧ s.simdAccess = .enabled ∧ (s.readR 0).toNat % alignmentBytes i.fields.align = 0
    ∧ (s.readR 0).toNat + 16 * pairCount i.fields.shape ≤ 2 ^ 32
    ∧ (⟨0x101F, 1⟩ : Region) ∈ s.devices ∧ (0x101F : Nat) < 0x101F + 1 ∧ (s.readR 0).toNat ≤ 0x101F
    ∧ 0x101F < (s.readR 0).toNat + 16 * pairCount i.fields.shape := by decide +kernel

theorem witness_FirstUnreadableElementAborts :
    Instr.wf (.vld2A1SingleOffset .b16 .omitted 0 6) = true ∧ kindOf (.vld2A1SingleOffset .b16 .omitted 0 6) = .load
    ∧ Instr.fields (.vld2A1SingleOffset .b16 .omitted 0 6) = ⟨.a32, .single, .b16, .omitted, 0, regField 6, 15⟩
    ∧ bed.iset = .a32 ∧ bed.conditionPassed = true ∧ bed.simdAccess = .enabled ∧ elementBytes .b16 = some 2
    ∧ (bed.readR 6).toNat % alignmentBytes .omitted = 0
    ∧ (bed.readR 6).toNat + 16 * pairCount .single ≤ Config.addressSpace
    ∧ bed.touchesDevice (bed.readR 6).toNat (16 * pairCount .single) = false
    ∧ (bed.strictAlign = true → (bed.readR 6).toNat % 2 = 0)
    ∧ ¬ bed.readable (bed.readR 6).toNat (16 * pairCount .single) :=
  ⟨by decide, by decide, by decide, by decide, by decide +kernel, by decide +kernel, by decide, by decide +kernel,
    by decide +kernel, by decide +kernel, by decide +kernel, not_readable_of_readBytes (by decide +kernel)⟩

/-- A memory that agrees with M on the 16 bytes from 0x1000 and holds nothing else. -/
theorem witness_LoadDependsOnlyOnItsFootprint :
    Instr.fields (.vld2A1SinglePost .b16 .omitted 0 0) = ⟨.a32, .single, .b16, .omitted, 0, regField 0, 13⟩
    ∧ testMemory.take 16 ≠ bed.mem
    ∧ ∀ a, (bed.readR 0).toNat ≤ a → a < (bed.readR 0).toNat + 16 * pairCount .single →
      Memory.readByte (testMemory.take 16) a = bed.mem.readByte a := by
  refine ⟨by decide, by decide +kernel, fun a h1 h2 => ?_⟩
  have hb : (bed.readR 0).toNat = 4096 := by decide +kernel
  have hc : ∀ k < 16, Memory.readByte (testMemory.take 16) (4096 + k) = bed.mem.readByte (4096 + k) := by decide +kernel
  simp only [hb, pairCount] at h1 h2
  have := hc (a - 4096) (by omega)
  rwa [show 4096 + (a - 4096) = a by omega] at this

theorem witness_DataAbortLeavesAllButTheListedRegisters :
    ∃ t, exec (.vld2A1SinglePost .b16 .omitted 0 6) bed = .fault (.dataAbort 0x1080#32 t) := by
  obtain ⟨t, h, -⟩ := exists_abort (o := exec (.vld2A1SinglePost .b16 .omitted 0 6) bed) (a := 0x1080#32)
    (p := fun _ => true) (by decide +kernel)
  exact ⟨t, h⟩

/-- Sixteen bytes more than M: what the aborted load lacked is among them. -/
theorem witness_AbortedLoadIsRestartable :
    let m := testMemory.writeBytes 0x1080 (List.replicate 16 7#8)
    ∃ t u, exec (.vld2A1SinglePost .b16 .omitted 0 6) bed = .fault (.dataAbort 0x1080#32 t)
      ∧ exec (.vld2A1SinglePost .b16 .omitted 0 6) { bed with mem := m } = .next u := by
  intro m
  obtain ⟨t, h, -⟩ := exists_abort (o := exec (.vld2A1SinglePost .b16 .omitted 0 6) bed) (a := 0x1080#32)
    (p := fun _ => true) (by decide +kernel)
  obtain ⟨u, h', -⟩ := exists_next (o := exec (.vld2A1SinglePost .b16 .omitted 0 6) { bed with mem := m })
    (p := fun _ => true) (by decide +kernel)
  exact ⟨t, u, h, h'⟩

theorem witness_EveryInstructionKeepsTheContext : ∃ t, exec (.vld2T2Post .b8 .a256 0 0) bedT = .next t := by
  obtain ⟨t, h, -⟩ := exists_next (o := exec (.vld2T2Post .b8 .a256 0 0) bedT) (p := fun _ => true) (by decide +kernel)
  exact ⟨t, h⟩

theorem witness_OnlyListedAndBaseRegistersChange :
    Instr.wf (.vld2A1DoubleIndex .b32 .omitted 29 3 3) = true
    ∧ ∃ t, exec (.vld2A1DoubleIndex .b32 .omitted 29 3 3) bed = .next t := by
  refine ⟨by decide, ?_⟩
  obtain ⟨t, h, -⟩ := exists_next (o := exec (.vld2A1DoubleIndex .b32 .omitted 29 3 3) bed) (p := fun _ => true)
    (by decide +kernel)
  exact ⟨t, h⟩

theorem witness_OnlyListedAndBaseRegistersChange_conditionFailed :
    Instr.wf (.vld2T2Post .b8 .omitted 28 0) = true ∧ bedFailed.conditionPassed = false
    ∧ ∃ t, exec (.vld2T2Post .b8 .omitted 28 0) bedFailed = .next t := by
  refine ⟨by decide, by decide +kernel, ?_⟩
  obtain ⟨t, h, -⟩ := exists_next (o := exec (.vld2T2Post .b8 .omitted 28 0) bedFailed) (p := fun _ => true)
    (by decide +kernel)
  exact ⟨t, h⟩

/-- One load for each clause: no write-back, the bytes loaded, and index registers R0 and R14 at the ends of their range. -/
theorem witness_WriteBackFollowsTheRmField :
    bed.conditionPassed = true
    ∧ (Instr.wf (.vld2A2Offset .b8 .omitted 0 0) = true ∧ nextHas (exec (.vld2A2Offset .b8 .omitted 0 0) bed) (fun _ => true) = true)
    ∧ (Instr.wf (.vld2A2Post .b8 .omitted 0 14) = true ∧ nextHas (exec (.vld2A2Post .b8 .omitted 0 14) bed) (fun _ => true) = true)
    ∧ (Instr.wf (.vld2A2Index .b8 .omitted 0 0 0) = true ∧ nextHas (exec (.vld2A2Index .b8 .omitted 0 0 0) bed) (fun _ => true) = true)
    ∧ (Instr.wf (.vld2A2Index .b8 .omitted 0 0 14) = true
      ∧ nextHas (exec (.vld2A2Index .b8 .omitted 0 0 14) bed) (fun _ => true) = true)
    ∧ Instr.fields (.vld2A2Index .b8 .omitted 0 0 14) = ⟨.a32, .four, .b8, .omitted, 0, regField 0, regField 14⟩ := by
  decide +kernel

theorem witness_RegisterImageFollowsSizeAndByteOrder_little :
    elementBytes .b16 = some 2 ∧ (30 : DReg).val ≤ 30 ∧ bed.iset = .a32 ∧ LoadReady bed 0 1 2 16 ∧ bed.bigEndian = false :=
  ⟨rfl, by decide, rfl, loadReady_of_checks (by decide +kernel), rfl⟩

theorem witness_RegisterImageFollowsSizeAndByteOrder_big :
    let s : State := { bed with bigEndian := true }
    elementBytes .b32 = some 4 ∧ (0 : DReg).val ≤ 30 ∧ s.iset = .a32 ∧ LoadReady s 0 1 4 16 ∧ s.bigEndian = true :=
  ⟨rfl, by decide, rfl, loadReady_of_checks (by decide +kernel), rfl⟩

theorem witness_RepeatedLoadWithoutWriteBackLoadsTheSame :
    (Instr.fields (.vld2T1DoubleOffset .b8 .omitted 16 2)).m.val = 15 ∧ bedT.conditionPassed = true
    ∧ ∃ t u, exec (.vld2T1DoubleOffset .b8 .omitted 16 2) bedT = .next t
      ∧ exec (.vld2T1DoubleOffset .b8 .omitted 16 2) t = .next u := by
  refine ⟨by decide, by decide +kernel, ?_⟩
  obtain ⟨t, h, ht⟩ := exists_next (o := exec (.vld2T1DoubleOffset .b8 .omitted 16 2) bedT)
    (p := fun t => nextHas (exec (.vld2T1DoubleOffset .b8 .omitted 16 2) t) (fun _ => true)) (by decide +kernel)
  obtain ⟨u, h', -⟩ := exists_next ht
  exact ⟨t, u, h, h'⟩

theorem witness_AlignQualifierHasNoOtherEffect :
    bed.conditionPassed = true
    ∧ ∃ t, exec (classify ⟨.a32, .four, .b8, .a256, 0, 0, 13⟩) bed = .next t := by
  refine ⟨by decide +kernel, ?_⟩
  obtain ⟨t, h, -⟩ := exists_next (o := exec (classify ⟨.a32, .four, .b8, .a256, 0, 0, 13⟩) bed) (p := fun _ => true)
    (by decide +kernel)
  exact ⟨t, h⟩

/-- The test state with the last 16 bytes of the address space held. -/
def bedTop : State := { bed with mem := Memory.writeBytes [] 0xFFFFFFF0 (List.replicate 16 7#8) }

theorem witness_WriteBackWrapsAtTheTopOfMemory :
    bedTop.iset = .a32 ∧ bedTop.simdAccess = .enabled ∧ bedTop.readR 5 = 0xFFFFFFF0#32 ∧ LoadReady bedTop 5 1 1 16
    ∧ bedTop.readR 7 = 0xFFFFFFF8#32 :=
  ⟨rfl, by decide +kernel, by decide +kernel, loadReady_of_checks (by decide +kernel), by decide +kernel⟩

theorem witness_StepExecutesTheDecodedInstruction :
    bedProgram.pc.toNat % fetchAlignment bedProgram.iset = 0 ∧ bedProgram.pc.toNat + 4 ≤ 2 ^ 32
    ∧ bedProgram.text.readBytes bedProgram.pc.toNat 4 = some [0x0F, 0x08, 0x20, 0xF4]
    ∧ decode bedProgram.iset [0x0F, 0x08, 0x20, 0xF4] = .ok (.vld2A1SingleOffset .b8 .omitted 0 0, []) := by
  decide +kernel

theorem witness_StepRefusesWhatItCannotFetch_misaligned :
    ({ bed with pc := 2#32 } : State).pc.toNat % fetchAlignment .a32 ≠ 0
    ∧ ({ bedT with pc := 1#32 } : State).pc.toNat % fetchAlignment .t32 ≠ 0 := by decide

theorem witness_StepRefusesWhatItCannotFetch_ended :
    bed.pc.toNat % fetchAlignment bed.iset = 0 ∧ bed.final = true := by decide +kernel

theorem witness_StepRefusesWhatItCannotFetch_otherWord :
    let s : State := { bed with text := Memory.writeBytes [] 0 [0x0F, 0x08, 0x00, 0xF4] }
    s.pc.toNat % fetchAlignment s.iset = 0 ∧ s.pc.toNat + 4 ≤ 2 ^ 32
    ∧ s.text.readBytes s.pc.toNat 4 = some [0x0F, 0x08, 0x00, 0xF4]
    ∧ decode s.iset [0x0F, 0x08, 0x00, 0xF4] = .error .notThisInstruction := by decide +kernel

/-- A32: the text lacks the first or the last of the four bytes. -/
theorem witness_StepRefusesWhatItCannotFetch_endsInsideA32 :
    let s : State := { bed with text := Memory.writeBytes [] 0 [0x0F, 0x08, 0x20] }
    s.iset = .a32 ∧ s.pc.toNat % 4 = 0 ∧ s.text.readByte (s.pc.toNat + 3) = none
    ∧ bed.text.readByte (bed.pc.toNat + 0) = none := by decide +kernel

/-- T32: the text lacks the first or the second byte of the first halfword. -/
theorem witness_StepRefusesWhatItCannotFetch_endsInsideFirstHalfword :
    let s : State := { bedT with text := [(0, 0x20#8)] }
    s.iset = .t32 ∧ s.pc.toNat % 2 = 0 ∧ s.text.readByte (s.pc.toNat + 1) = none
    ∧ bedT.text.readByte (bedT.pc.toNat + 0) = none := by decide +kernel

/-- T32: a halfword that is an instruction by itself; a 32-bit instruction whose third or fourth byte is lacking; one that starts
in the last two bytes of the address space. -/
theorem witness_StepRefusesWhatItCannotFetch_secondHalfword :
    let s : State := { bedT with text := Memory.writeBytes [] 0 [0x20, 0xF9, 0x0F] }
    let top : State := { bedT with pc := 0xFFFFFFFE#32, text := Memory.writeBytes [] 0xFFFFFFFE [0x20, 0xF9] }
    ({ bedT with text := Memory.writeBytes [] 0 [0x00, 0x46] } : State).text.readByte 1 = some 0x46#8 ∧ t32Wide 0x46#8 = false
    ∧ s.iset = .t32 ∧ s.pc.toNat % 2 = 0 ∧ s.text.readByte s.pc.toNat = some 0x20#8
    ∧ s.text.readByte (s.pc.toNat + 1) = some 0xF9#8 ∧ t32Wide 0xF9#8 = true ∧ s.pc.toNat + 4 ≤ 2 ^ 32
    ∧ s.text.readByte (s.pc.toNat + 3) = none
    ∧ top.iset = .t32 ∧ top.pc.toNat % 2 = 0 ∧ top.text.readByte top.pc.toNat = some 0x20#8
    ∧ top.text.readByte (top.pc.toNat + 1) = some 0xF9#8 := by decide +kernel

theorem witness_ConditionTableReadsTheFlags :
    bed.iset = .a32 ∧ bedT.iset = .t32 ∧ bedT.itstate.extractLsb' 0 4 = 0#4
    ∧ bedFailed.iset = .t32 ∧ bedFailed.itstate.extractLsb' 0 4 ≠ 0#4 := by decide

theorem witness_PlacedTableWordIsTheNextInstruction :
    decodeTableWord 32 0xF92D895D = some (.vld2T1DoublePost .b16 .a64 8 13) := by decide +kernel

theorem witness_ITStateAdvanceShiftsTheMask :
    (0x08#8).extractLsb' 0 3 = 0#3 ∧ (0x1C#8).extractLsb' 0 3 ≠ 0#3 := by decide

theorem witness_SizeFieldGivesElementBytes :
    (0b10#2 : BitVec 2) ≠ 0b11#2
    ∧ (∃ p, decodeOperands ⟨.a32, .double, .b32, .a64, 29, 14, 15⟩ = .ok p)
    ∧ (⟨.a32, .four, .reserved, .a64, 28, 0, 15⟩ : Fields).size = SizeField.ofBits 0b11#2 :=
  ⟨by decide, ⟨_, rfl⟩, rfl⟩

theorem witness_AlignFieldGivesAlignmentBytes :
    (∃ p, decodeOperands ⟨.t32, .four, .b8, .a256, 28, 0, 13⟩ = .ok p)
    ∧ (⟨.a32, .single, .b32, .a256, 0, 0, 15⟩ : Fields).size ≠ .reserved :=
  ⟨⟨_, rfl⟩, by decide⟩

theorem witness_UndefinedWordsAreExactlyThese :
    decodeWord .a32 0xF420083F#32 = some (.undefinedA1Align .single .b8 0 0 15)
    ∧ decodeWord .a32 0xF420033F#32 = some (.vld2A2Offset .b8 .a256 0 0) := by decide +kernel

/-- The lowest first registers past each list's range, and the highest inside it. -/
theorem witness_UnpredictableWordsAreExactlyThese :
    decodeWord .a32 0xF460F80F#32 = some (.unpredictableA1SingleD31 .b8 .omitted 0 15)
    ∧ decodeWord .a32 0xF460E90F#32 = some (.unpredictableA1DoubleD30 .b8 .omitted 30 0 15)
    ∧ decodeWord .a32 0xF460D30F#32 = some (.unpredictableA2D29 .b8 .omitted 0 15)
    ∧ decodeWord .a32 0xF460E80F#32 = some (.vld2A1SingleOffset .b8 .omitted 30 0)
    ∧ kindOf (.unpredictableA2D29 .b8 .omitted 0 15) ≠ .undefined
    ∧ kindOf (.vld2A1SingleOffset .b8 .omitted 30 0) ≠ .undefined := by decide +kernel

theorem witness_DisassembledLoadAssemblesBack :
    Instr.wf (.vld2A2Index .b32 .a256 28 14 14) = true ∧ kindOf (.vld2A2Index .b32 .a256 28 14 14) = .load
    ∧ Instr.wf (.unpredictableA1SingleD31 .b8 .omitted 0 15) = true
    ∧ kindOf (.unpredictableA1SingleD31 .b8 .omitted 0 15) ≠ .load := by decide

theorem witness_AssemblerRejectsWhatItMust :
    assemble ⟨.a32, some .al, some .wide, 16, [29, 31], 14, some 128, .atSign, .index 14⟩
      = some (.vld2A1DoubleIndex .b16 .a128 29 14 14)
    ∧ assemble ⟨.t32, some .eq, none, 8, [28, 29, 30, 31], 0, some 256, .colon, .post⟩
      = some (.vld2T2Post .b8 .a256 28 0)
    ∧ assemble ⟨.a32, some .eq, none, 8, [0, 1], 0, none, .colon, .post⟩ = none
    ∧ assemble ⟨.a32, none, none, 8, [0, 1], 0, some 256, .colon, .post⟩ = none := by decide +kernel

theorem witness_InstructionOfTheOtherSetIsRefused :
    bedT.iset ≠ Instr.iset (.vld2A1SingleOffset .b8 .omitted 0 0) := by decide

theorem witness_LoadsStopOnlyForListedReasons :
    Instr.wf (.vld2A1SingleOffset .b8 .omitted 30 14) = true ∧ kindOf (.vld2A1SingleOffset .b8 .omitted 30 14) = .load
    ∧ bed.iset = Instr.iset (.vld2A1SingleOffset .b8 .omitted 30 14) := by decide

end Sys2Proof.Machine
end

section
/-! PROOFS. The fields of a word (30_encoding.md): which values of `size` and `align` are UNDEFINED, and which write-back
the `Rm` field selects. -/

namespace Sys2Proof

/-! ### The fields of a decoded word -/

/-- What a word of the four patterns gives for its fields, by the bit positions of rules R61 to R64. -/
theorem fieldsOfWord_some {iset : ISet} {w : BitVec 32} {f : Fields} (h : fieldsOfWord iset w = some f) :
    f.iset = iset ∧ Shape.ofBits (w.extractLsb' 8 4) = some f.shape
    ∧ f.size = SizeField.ofBits (w.extractLsb' 6 2) ∧ f.align = AlignField.ofBits (w.extractLsb' 4 2)
    ∧ f.d = (w.extractLsb' 22 1 ++ w.extractLsb' 12 4).toFin ∧ f.n = (w.extractLsb' 16 4).toFin
    ∧ f.m = (w.extractLsb' 0 4).toFin := by
  unfold fieldsOfWord at h
  split at h
  · split at h
    · cases h
    next shape hshape =>
      cases h
      exact ⟨rfl, hshape, rfl, rfl, rfl, rfl, rfl⟩
  · cases h

theorem SizeField.ofBits_eq_reserved_iff (b : BitVec 2) : SizeField.ofBits b = .reserved ↔ b = 0b11#2 := by
  revert b; decide

theorem AlignField.ofBits_eq_a256_iff (b : BitVec 2) : AlignField.ofBits b = .a256 ↔ b = 0b11#2 := by
  revert b; decide

/-- The `itype` values of A1 and T1 are those of the two-register lists (rule R72). -/
theorem Shape.twoRegs_iff_of_ofBits {b : BitVec 4} {shape : Shape} (h : Shape.ofBits b = some shape) :
    shape.twoRegs = true ↔ b = 0b1000#4 ∨ b = 0b1001#4 := by
  revert b; cases shape <;> decide

theorem Shape.twoRegs_iff_ne_four (shape : Shape) : shape.twoRegs = true ↔ shape ≠ .four := by
  cases shape <;> decide

end Sys2Proof

namespace Sys2Proof.Machine

/-! ### The UNDEFINED words (rule R74) -/

/-- The fields of an UNDEFINED word: `size` 11, or `align` 11 with a two-register list. -/
def UndefinedFields (f : Fields) : Prop :=
  f.size = .reserved ∨ (f.shape.twoRegs = true ∧ f.align = .a256)

theorem kindOf_classifyA32_eq_undefined_iff (shape : Shape) (size : SizeField) (align : AlignField) (d : DReg)
    (n m : GField) :
    kindOf (classifyA32 shape size align d n m) = .undefined
      ↔ size = .reserved ∨ (shape.twoRegs = true ∧ align = .a256) := by
  cases shape <;> unfold classifyA32 <;> split_ifs <;> simp [kindOf, Shape.twoRegs, *]

theorem kindOf_classifyT32_eq_undefined_iff (shape : Shape) (size : SizeField) (align : AlignField) (d : DReg)
    (n m : GField) :
    kindOf (classifyT32 shape size align d n m) = .undefined
      ↔ size = .reserved ∨ (shape.twoRegs = true ∧ align = .a256) := by
  cases shape <;> unfold classifyT32 <;> split_ifs <;> simp [kindOf, Shape.twoRegs, *]

/-- The decoder's UNDEFINED rows; no test of `Rn` or of the list comes before theirs. -/
theorem kindOf_classify_eq_undefined_iff (f : Fields) : kindOf (classify f) = .undefined ↔ UndefinedFields f := by
  unfold classify
  split
  · exact kindOf_classifyA32_eq_undefined_iff ..
  · exact kindOf_classifyT32_eq_undefined_iff ..

theorem elementBytes_eq_none_iff (size : SizeField) : elementBytes size = none ↔ size = .reserved := by
  cases size <;> decide

/-- The decode pseudocode raises Undefined on the same fields. -/
theorem decodeOperands_eq_undefined_iff (f : Fields) :
    decodeOperands f = .error (.fault .undefined) ↔ UndefinedFields f := by
  unfold decodeOperands UndefinedFields
  split
  next halign =>
    have halign : f.shape.twoRegs = true ∧ f.align = .a256 := by simpa using halign
    simp [halign]
  next halign =>
    have halign : ¬ (f.shape.twoRegs = true ∧ f.align = .a256) := by simpa using halign
    split
    next hsize => simp [(elementBytes_eq_none_iff _).mp hsize]
    next ebytes hsize =>
      have hsize : f.size ≠ .reserved := by
        rw [Ne, ← elementBytes_eq_none_iff, hsize]; exact Option.some_ne_none _
      split_ifs <;> simp [hsize, halign]

/-- Settles O46: the decoder's UNDEFINED rows, read back to the word's `size`, `align` and `itype` bits. -/
theorem undefinedWordsAreExactlyThese : Obligations.UndefinedWordsAreExactlyThese := by
  intro iset w i hi
  obtain ⟨f, hf, rfl⟩ := Option.map_eq_some_iff.mp hi
  obtain ⟨-, hshape, hsize, halign, -⟩ := fieldsOfWord_some hf
  rw [kindOf_classify_eq_undefined_iff, UndefinedFields, hsize, halign, SizeField.ofBits_eq_reserved_iff,
    AlignField.ofBits_eq_a256_iff, Shape.twoRegs_iff_of_ofBits hshape, and_comm (a := _ ∨ _)]

/-! ### The tables of `size` and `align` (rules R69, R70) -/

theorem elementBytes_ofBits {b : BitVec 2} (hb : b ≠ 0b11#2) :
    elementBytes (SizeField.ofBits b) = some (2 ^ b.toNat) := by
  revert b; decide

theorem alignmentBytes_ofBits (b : BitVec 2) :
    alignmentBytes (AlignField.ofBits b) = if b = 0b00#2 then 1 else 4 * 2 ^ b.toNat := by
  revert b; decide

/-- The rows of the table of rule R69. -/
theorem elementBytes_some {size : SizeField} {ebytes : Nat} (h : elementBytes size = some ebytes) :
    (size = .b8 ∧ ebytes = 1) ∨ (size = .b16 ∧ ebytes = 2) ∨ (size = .b32 ∧ ebytes = 4) := by
  cases size <;> simp [elementBytes] at h <;> simp [h]

/-- Settles O44, from the table of `elementBytes` and the fields on which the decode raises Undefined. -/
theorem sizeFieldGivesElementBytes : Obligations.SizeFieldGivesElementBytes := by
  refine ⟨fun b hb => elementBytes_ofBits hb, fun f p hp => ?_, fun f hf => ?_⟩
  · obtain ⟨-, hbytes, -⟩ := decodeOperands_ok hp
    obtain ⟨hsize, hp⟩ | ⟨hsize, hp⟩ | ⟨hsize, hp⟩ := elementBytes_some hbytes <;>
      simp [hsize, hp, LoadOperands.elements]
  · have hreserved : f.size = .reserved := hf.trans ((SizeField.ofBits_eq_reserved_iff _).mpr rfl)
    exact (decodeOperands_eq_undefined_iff f).mpr (.inl hreserved)

/-- Settles O45, from the table of `alignmentBytes` and the fields on which the decode raises Undefined. -/
theorem alignFieldGivesAlignmentBytes : Obligations.AlignFieldGivesAlignmentBytes := by
  refine ⟨alignmentBytes_ofBits, fun f p hp => ?_, fun f hsize => ?_⟩
  · obtain ⟨-, -, halignment, -⟩ := decodeOperands_ok hp
    exact halignment
  · rw [decodeOperands_eq_undefined_iff, UndefinedFields, Shape.twoRegs_iff_ne_four,
      (AlignField.ofBits_eq_a256_iff _).mpr rfl]
    exact or_iff_right hsize

/-! ### The write-back that `Rm` selects (rule R71) -/

theorem writeBackOf_eq_none {m : GField} (h : m.val = 15) : writeBackOf m = .none := by
  simp [writeBackOf, h]

theorem writeBackOf_eq_bytes {m : GField} (h : m.val = 13) : writeBackOf m = .bytes := by
  simp [writeBackOf, h, Config.numR]

theorem writeBackOf_regField {m : Fin Config.numR} (h : m.val ≠ 13) : writeBackOf (regField m) = .index m := by
  have hlt : (regField m).val < Config.numR := m.isLt
  have hne : (regField m).val ≠ 13 := h
  rw [writeBackOf, dif_pos hlt, if_neg hne]
  rfl

/-- The base register after a load completes: it takes the write-back value, read from the state before the load, if there is
one (rule R99). -/
theorem State.readR_base_completeLoad (s : State) (p : LoadOperands) (v : DRegs) :
    (s.completeLoad p v).readR p.n = (writeBackValue s p).getD (s.readR p.n) := by
  rw [State.readR_completeLoad, State.readR_doWriteBack, if_pos rfl]

/-- An instruction that passes its condition and has a next state is a load that completed. -/
theorem exec_next_completeLoad {i : Instr} {s t : State} (hc : s.conditionPassed = true) (h : exec i s = .next t) :
    ∃ p v, decodeOperands i.fields = .ok p ∧ t = s.completeLoad p v := by
  rw [exec_eq_execFields] at h
  obtain ⟨-, ⟨hfail, -⟩ | ⟨-, -, p, hp, hload⟩⟩ := execFields_next h
  · simp [hc] at hfail
  · obtain ⟨-, -, -, v, -, ht⟩ := loadAccess_next hload
    exact ⟨p, v, hp, ht⟩

/-- Settles O34: the base register of the completed load takes the value of the form that `Rm` selects. -/
theorem writeBackFollowsTheRmField : Obligations.WriteBackFollowsTheRmField := by
  intro i s t n _ _ hn hc h
  obtain ⟨p, v, hp, rfl⟩ := exec_next_completeLoad hc h
  obtain ⟨hregs, -, -, -, -, -, hpn, hwb, -⟩ := decodeOperands_ok hp
  obtain rfl : p.n = n := Fin.ext (by rw [hpn, hn]; rfl)
  rw [State.readR_base_completeLoad, writeBackValue, hwb, hregs]
  refine ⟨fun hm => ?_, fun hm => ?_, fun m hm hmf => ?_⟩
  · rw [writeBackOf_eq_none hm]; rfl
  · rw [writeBackOf_eq_bytes hm]; rfl
  · rw [hmf, writeBackOf_regField hm]; rfl

end Sys2Proof.Machine
end

section
/-! PROOFS. The decode pseudocode of the four encodings (40_vld2_multiple.md, rules R91 to R94). The word's fields decide
the decode; each value of the pseudocode is one field read through its table, so A1 with T1, and A2 with T2, are one
argument about the register list, for either instruction set. -/

namespace Sys2Proof

/-! ### From a pattern to its fields and back -/

/-- A word of one of the instruction set's patterns has fields, with the list that its `itype` selects. -/
theorem exists_fieldsOfWord {iset : ISet} {w : BitVec 32} {shape : Shape}
    (hprefix : w.extractLsb' 23 9 = iset.prefixBits) (hload : w.extractLsb' 20 2 = 0b10#2)
    (hshape : Shape.ofBits (w.extractLsb' 8 4) = some shape) :
    ∃ f, fieldsOfWord iset w = some f ∧ f.shape = shape := by
  simp [fieldsOfWord, hprefix, hload, hshape]

/-- The A32 rows forget no field: those that a row leaves out are fixed by the tests that select it. -/
theorem fields_classifyA32 (shape : Shape) (size : SizeField) (align : AlignField) (d : DReg) (n m : GField) :
    (classifyA32 shape size align d n m).fields = ⟨.a32, shape, size, align, d, n, m⟩ := by
  cases shape <;> simp only [classifyA32] <;> split_ifs <;> simp [Instr.fields, *]

theorem fields_classifyT32 (shape : Shape) (size : SizeField) (align : AlignField) (d : DReg) (n m : GField) :
    (classifyT32 shape size align d n m).fields = ⟨.t32, shape, size, align, d, n, m⟩ := by
  cases shape <;> simp only [classifyT32] <;> split_ifs <;> simp [Instr.fields, *]

@[simp] theorem fields_classify (f : Fields) : (classify f).fields = f := by
  obtain ⟨iset, shape, size, align, d, n, m⟩ := f
  cases iset
  · exact fields_classifyA32 ..
  · exact fields_classifyT32 ..

/-- `UInt(D:Vd)` (rule R68). -/
theorem val_toFin_append (D : BitVec 1) (Vd : BitVec 4) : (D ++ Vd).toFin.val = 16 * D.toNat + Vd.toNat := by
  revert D Vd; decide

end Sys2Proof

namespace Sys2Proof.Machine

/-! ### The tests of the decode, in their order -/

/-- The fields of a word that the decode, having found it not UNDEFINED, calls UNPREDICTABLE (rule R75). -/
def UnpredictableFields (f : Fields) : Prop :=
  f.n.val = 15 ∨ f.d.val + pairSpacing f.shape + pairCount f.shape > 32

theorem exists_elementBytes {size : SizeField} (h : size ≠ .reserved) : ∃ ebytes, elementBytes size = some ebytes :=
  Option.ne_none_iff_exists'.mp (mt (elementBytes_eq_none_iff size).mp h)

theorem decodeOperands_eq_unpredictable {f : Fields} (hdef : ¬ UndefinedFields f) (h : UnpredictableFields f) :
    ∃ reason, decodeOperands f = .error (.refusal (.unpredictable reason)) := by
  obtain ⟨hsize, halign⟩ := not_or.mp hdef
  obtain ⟨ebytes, hbytes⟩ := exists_elementBytes hsize
  by_cases hn : f.n.val < Config.numR
  · have hlist := h.resolve_left hn.ne
    exact ⟨.listPastD31, by simp [decodeOperands, halign, hbytes, hn, hlist]⟩
  · exact ⟨.baseIsPC, by simp [decodeOperands, halign, hbytes, hn]⟩

theorem exists_decodeOperands_ok {f : Fields} (hdef : ¬ UndefinedFields f) (h : ¬ UnpredictableFields f) :
    ∃ p, decodeOperands f = .ok p := by
  obtain ⟨hsize, halign⟩ := not_or.mp hdef
  obtain ⟨hpc, hlist⟩ := not_or.mp h
  obtain ⟨ebytes, hbytes⟩ := exists_elementBytes hsize
  have hn : f.n.val < Config.numR := Nat.lt_of_le_of_ne (Nat.le_of_lt_succ f.n.isLt) hpc
  simp [decodeOperands, halign, hbytes, hn, hlist]

/-! ### The values of the decode, read back to the word's bits -/

/-- The three rows of the table of rule R71. -/
theorem writeBackOf_spec (m : GField) :
    (m.val = 15 → writeBackOf m = .none) ∧ (m.val = 13 → writeBackOf m = .bytes)
    ∧ (m.val ≠ 15 → m.val ≠ 13 → ∃ k : Fin Config.numR, k.val = m.val ∧ writeBackOf m = .index k) := by
  refine ⟨writeBackOf_eq_none, writeBackOf_eq_bytes, fun h15 h13 => ?_⟩
  let k : Fin Config.numR := ⟨m.val, Nat.lt_of_le_of_ne (Nat.le_of_lt_succ m.isLt) h15⟩
  exact ⟨k, rfl, writeBackOf_regField (m := k) h13⟩

/-- The decode of a word's fields is the pseudocode of its encoding on the word's bits, with the `regs`, the `inc` and the
`align` test of the list that its `itype` selects. -/
theorem decodesAs_decodeOperands {iset : ISet} {w : BitVec 32} {f : Fields} (h : fieldsOfWord iset w = some f) :
    DecodesAs w (pairCount f.shape) (pairSpacing f.shape) f.shape.twoRegs (decodeOperands f) := by
  obtain ⟨-, -, hsize, halign, hd, hn, hm⟩ := fieldsOfWord_some h
  have halign3 : f.align = .a256 ↔ (w.extractLsb' 4 2).toNat = 3 := by
    rw [halign, AlignField.ofBits_eq_a256_iff, BitVec.toNat_eq]; rfl
  have hsize3 : f.size = .reserved ↔ (w.extractLsb' 6 2).toNat = 3 := by
    rw [hsize, SizeField.ofBits_eq_reserved_iff, BitVec.toNat_eq]; rfl
  have hdval : f.d.val = 16 * (w.extractLsb' 22 1).toNat + (w.extractLsb' 12 4).toNat := by
    rw [hd, val_toFin_append]
  have hnval : f.n.val = (w.extractLsb' 16 4).toNat := by rw [hn]; rfl
  have hmval : f.m.val = (w.extractLsb' 0 4).toNat := by rw [hm]; rfl
  have halignVal : alignmentBytes f.align
      = if (w.extractLsb' 4 2).toNat = 0 then 1 else 4 * 2 ^ (w.extractLsb' 4 2).toNat := by
    rw [halign, alignmentBytes_ofBits]; simp only [BitVec.toNat_eq]; rfl
  simp only [DecodesAs, ← halign3, ← hsize3, ← hdval, ← hnval, ← hmval]
  split
  next hundef => exact (decodeOperands_eq_undefined_iff f).mpr (.inr hundef)
  next halignTest =>
  split
  next hundef => exact (decodeOperands_eq_undefined_iff f).mpr (.inl hundef)
  next hsizeTest =>
  have hdef : ¬ UndefinedFields f := not_or.mpr ⟨hsizeTest, halignTest⟩
  split
  next hunpred => exact decodeOperands_eq_unpredictable hdef hunpred
  next hpred =>
  obtain ⟨p, hp⟩ := exists_decodeOperands_ok hdef hpred
  obtain ⟨hregs, hbytes, halignment, hpd, hpd2, -, hpn, hwb, -⟩ := decodeOperands_ok hp
  have hebytes : p.ebytes = 2 ^ (w.extractLsb' 6 2).toNat := by
    have hbits := mt (SizeField.ofBits_eq_reserved_iff _).mpr (hsize ▸ hsizeTest)
    rw [hsize, elementBytes_ofBits hbits] at hbytes
    exact (Option.some.inj hbytes).symm
  have helements : p.elements = 8 / 2 ^ (w.extractLsb' 6 2).toNat := by rw [LoadOperands.elements, hebytes]
  refine ⟨p, hp, hregs, halignment.trans halignVal, hebytes, helements, hpd, hpd2, hpn, ?_⟩
  rw [hwb]
  exact writeBackOf_spec f.m

/-! ### The four encodings -/

/-- Every word of a pattern decodes, and its instruction's decode is the pseudocode on the word's bits. -/
theorem decodeWord_decodesAs {iset : ISet} {w : BitVec 32} {shape : Shape}
    (hprefix : w.extractLsb' 23 9 = iset.prefixBits) (hload : w.extractLsb' 20 2 = 0b10#2)
    (hshape : Shape.ofBits (w.extractLsb' 8 4) = some shape) :
    ∃ i, decodeWord iset w = some i ∧ i.iset = iset
      ∧ DecodesAs w (pairCount shape) (pairSpacing shape) shape.twoRegs (decodeOperands i.fields) := by
  obtain ⟨f, hf, rfl⟩ := exists_fieldsOfWord hprefix hload hshape
  obtain ⟨hiset, -⟩ := fieldsOfWord_some hf
  refine ⟨classify f, by rw [decodeWord, hf]; rfl, ?_, ?_⟩
  · rw [Instr.iset, fields_classify, hiset]
  · rw [fields_classify]
    exact decodesAs_decodeOperands hf

/-- The two-register lists: `regs` is 1, `itype` gives `inc`, and `align` is tested. -/
theorem decodeWord_twoRegs_decodesAs {iset : ISet} {w : BitVec 32}
    (hprefix : w.extractLsb' 23 9 = iset.prefixBits) (hload : w.extractLsb' 20 2 = 0b10#2)
    (hitype : w.extractLsb' 8 4 = 0b1000#4 ∨ w.extractLsb' 8 4 = 0b1001#4) :
    ∃ i, decodeWord iset w = some i ∧ i.iset = iset
      ∧ DecodesAs w 1 (if w.extractLsb' 8 4 = 0b1001#4 then 2 else 1) true (decodeOperands i.fields) := by
  obtain hitype | hitype := hitype
  · rw [hitype]
    exact decodeWord_decodesAs (shape := .single) hprefix hload (by rw [hitype]; rfl)
  · rw [hitype]
    exact decodeWord_decodesAs (shape := .double) hprefix hload (by rw [hitype]; rfl)

/-- The four-register list: `regs` and `inc` are 2, and every `align` is admitted. -/
theorem decodeWord_four_decodesAs {iset : ISet} {w : BitVec 32}
    (hprefix : w.extractLsb' 23 9 = iset.prefixBits) (hload : w.extractLsb' 20 2 = 0b10#2)
    (hitype : w.extractLsb' 8 4 = 0b0011#4) :
    ∃ i, decodeWord iset w = some i ∧ i.iset = iset ∧ DecodesAs w 2 2 false (decodeOperands i.fields) :=
  decodeWord_decodesAs (shape := .four) hprefix hload (by rw [hitype]; rfl)

/-- Settles O7: A1 is the two-register pattern of A32. -/
theorem decodeOfA1FollowsItsPseudocode : Obligations.DecodeOfA1FollowsItsPseudocode :=
  fun _ hprefix hload hitype => decodeWord_twoRegs_decodesAs hprefix hload hitype

/-- Settles O8: A2 is the four-register pattern of A32. -/
theorem decodeOfA2FollowsItsPseudocode : Obligations.DecodeOfA2FollowsItsPseudocode :=
  fun _ hprefix hload hitype => decodeWord_four_decodesAs hprefix hload hitype

/-- Settles O9: T1 is the two-register pattern of T32. -/
theorem decodeOfT1FollowsItsPseudocode : Obligations.DecodeOfT1FollowsItsPseudocode :=
  fun _ hprefix hload hitype => decodeWord_twoRegs_decodesAs hprefix hload hitype

/-- Settles O10: T2 is the four-register pattern of T32. -/
theorem decodeOfT2FollowsItsPseudocode : Obligations.DecodeOfT2FollowsItsPseudocode :=
  fun _ hprefix hload hitype => decodeWord_four_decodesAs hprefix hload hitype

end Sys2Proof.Machine
end

section
/-! PROOFS. Decoding and encoding are inverse (30_encoding.md sections 1 to 4). Both directions go through the fields:
a word and its fields determine each other, and so do the well-formed instructions and the fields of the four
patterns. -/

namespace Sys2Proof

/-! ### A word and its fields -/

@[simp] theorem Shape.ofBits_bits (shape : Shape) : Shape.ofBits shape.bits = some shape := by cases shape <;> rfl

@[simp] theorem SizeField.ofBits_bits (size : SizeField) : SizeField.ofBits size.bits = size := by cases size <;> rfl

@[simp] theorem AlignField.ofBits_bits (align : AlignField) : AlignField.ofBits align.bits = align := by
  cases align <;> rfl

theorem Shape.bits_of_ofBits {b : BitVec 4} {shape : Shape} (h : Shape.ofBits b = some shape) : shape.bits = b := by
  revert b; cases shape <;> decide

@[simp] theorem SizeField.bits_ofBits (b : BitVec 2) : (SizeField.ofBits b).bits = b := by revert b; decide

@[simp] theorem AlignField.bits_ofBits (b : BitVec 2) : (AlignField.ofBits b).bits = b := by revert b; decide

/-- The nine segments of an encoded word (rules R61 to R64). -/
theorem segments_encodeFields (f : Fields) :
    (encodeFields f).extractLsb' 23 9 = f.iset.prefixBits
    ∧ (encodeFields f).extractLsb' 22 1 = (BitVec.ofFin (w := 5) f.d).extractLsb' 4 1
    ∧ (encodeFields f).extractLsb' 20 2 = 0b10#2
    ∧ (encodeFields f).extractLsb' 16 4 = BitVec.ofFin (w := 4) f.n
    ∧ (encodeFields f).extractLsb' 12 4 = (BitVec.ofFin (w := 5) f.d).extractLsb' 0 4
    ∧ (encodeFields f).extractLsb' 8 4 = f.shape.bits
    ∧ (encodeFields f).extractLsb' 6 2 = f.size.bits
    ∧ (encodeFields f).extractLsb' 4 2 = f.align.bits
    ∧ (encodeFields f).extractLsb' 0 4 = BitVec.ofFin (w := 4) f.m :=
  fields_of_append ..

/-- `D:Vd` of a register number is the register number (rule R68). -/
theorem append_extract_dreg (d : DReg) :
    (BitVec.ofFin (w := 5) d).extractLsb' 4 1 ++ (BitVec.ofFin (w := 5) d).extractLsb' 0 4 = BitVec.ofFin (w := 5) d := by
  revert d; decide

/-- The fields of an encoded word are the fields it was made of. -/
theorem fieldsOfWord_encodeFields (f : Fields) : fieldsOfWord f.iset (encodeFields f) = some f := by
  obtain ⟨hp, hD, hl, hn, hVd, hit, hsz, hal, hm⟩ := segments_encodeFields f
  simp only [fieldsOfWord, hp, hD, hl, hn, hVd, hit, hsz, hal, hm, append_extract_dreg, Shape.ofBits_bits,
    SizeField.ofBits_bits, AlignField.ofBits_bits, and_self, if_true]

/-- A word is its nine segments, put together. -/
theorem append_segments (w : BitVec 32) :
    w.extractLsb' 23 9 ++ w.extractLsb' 22 1 ++ w.extractLsb' 20 2 ++ w.extractLsb' 16 4 ++ w.extractLsb' 12 4
      ++ w.extractLsb' 8 4 ++ w.extractLsb' 6 2 ++ w.extractLsb' 4 2 ++ w.extractLsb' 0 4 = w := by
  apply BitVec.eq_of_getLsbD_eq
  intro i hi
  simp only [BitVec.getLsbD_extractLsb', BitVec.getLsbD_append]
  interval_cases i <;> simp

/-- The fixed bits of a word that has fields (rule R73, items 1 and 4). -/
theorem fieldsOfWord_fixedBits {iset : ISet} {w : BitVec 32} {f : Fields} (h : fieldsOfWord iset w = some f) :
    w.extractLsb' 23 9 = iset.prefixBits ∧ w.extractLsb' 20 2 = 0b10#2 := by
  unfold fieldsOfWord at h
  split at h
  next hfixed => exact hfixed
  next => cases h

/-- The two parts of `D:Vd` (rule R68). -/
theorem extract_append_dreg (D : BitVec 1) (Vd : BitVec 4) :
    (D ++ Vd).extractLsb' 4 1 = D ∧ (D ++ Vd).extractLsb' 0 4 = Vd := by
  revert D Vd; decide

/-- The word made of a word's fields is the word. -/
theorem encodeFields_of_fieldsOfWord {iset : ISet} {w : BitVec 32} {f : Fields} (h : fieldsOfWord iset w = some f) :
    encodeFields f = w := by
  obtain ⟨hprefix, hload⟩ := fieldsOfWord_fixedBits h
  obtain ⟨hiset, hshape, hsize, halign, hd, hn, hm⟩ := fieldsOfWord_some h
  obtain ⟨hD, hVd⟩ := extract_append_dreg (w.extractLsb' 22 1) (w.extractLsb' 12 4)
  conv_rhs => rw [← append_segments w]
  rw [encodeFields, hiset, hsize, halign, hd, hn, hm, ← hprefix, ← hload, Shape.bits_of_ofBits hshape,
    SizeField.bits_ofBits, AlignField.bits_ofBits, BitVec.ofFin_toFin, BitVec.ofFin_toFin, BitVec.ofFin_toFin, hD, hVd]

/-! ### An instruction and its fields -/

theorem SizeField.defined_iff (size : SizeField) : size.defined = true ↔ size ≠ .reserved := by cases size <;> decide

theorem AlignField.twoRegs_iff (align : AlignField) : align.twoRegs = true ↔ align ≠ .a256 := by cases align <;> decide

theorem GField.base_iff (n : GField) : n.base = true ↔ n ≠ 15 := by simp [GField.base]

theorem GField.index_iff (m : GField) : m.index = true ↔ m ≠ 13 ∧ m ≠ 15 := by simp [GField.index]

/-! The bounds on the first register of a list, as the tests that the decoder makes of it. -/

theorem DReg.le_30_iff (d : DReg) : d.val ≤ 30 ↔ d ≠ 31 := by revert d; decide

theorem DReg.le_29_iff (d : DReg) : d.val ≤ 29 ↔ ¬ 30 ≤ d.val := by revert d; decide

theorem DReg.le_28_iff (d : DReg) : d.val ≤ 28 ↔ ¬ 30 ≤ d.val ∧ d ≠ 29 := by revert d; decide

/-- Every instruction that the decoder answers is well formed: the tests that precede its row are the negations of
those of the rows before it. -/
theorem wf_classify (f : Fields) : (classify f).wf = true := by
  obtain ⟨iset, shape, size, align, d, n, m⟩ := f
  cases iset <;> cases shape <;> simp only [classify, classifyA32, classifyT32] <;> split_ifs <;>
    simp [Instr.wf, Shape.twoRegs, SizeField.defined_iff, AlignField.twoRegs_iff, GField.base_iff, GField.index_iff,
      DReg.le_30_iff, DReg.le_29_iff, DReg.le_28_iff, -not_le, *]

/-- A well-formed instruction is the one that its fields decode to: its row is the first that they match (rule R73).
-/
theorem classify_fields_of_wf {i : Instr} (h : i.wf = true) : classify i.fields = i := by
  cases i <;>
    simp only [Instr.wf, Bool.and_eq_true, decide_eq_true_eq, SizeField.defined_iff, AlignField.twoRegs_iff,
      GField.base_iff, GField.index_iff, DReg.le_30_iff, DReg.le_29_iff, DReg.le_28_iff] at h <;>
    simp [Instr.fields, classify, classifyA32, classifyT32, h, -not_le]
  -- the rows of A1 and T1 that leave `itype` variable
  all_goals split <;> simp_all [Shape.twoRegs]

/-- The instruction set of the instruction that some fields decode to. -/
@[simp] theorem iset_classify (f : Fields) : (classify f).iset = f.iset := by rw [Instr.iset, fields_classify]

/-! ### The two directions -/

/-- The encoded word of a well-formed instruction decodes to it. -/
theorem decodeWord_encode {i : Instr} (h : i.wf = true) : decodeWord i.iset (encode i) = some i := by
  rw [decodeWord, Instr.iset, encode, fieldsOfWord_encodeFields, Option.map_some, classify_fields_of_wf h]

/-- Settles O4: the bytes of a word decode as the word does, and the word decodes to its instruction. -/
theorem decodeReadsBackEveryEncoding : Obligations.DecodeReadsBackEveryEncoding := by
  intro i rest h
  rw [encodeBytes, decode_bytesOfWord, decodeWord_encode h]

/-- Settles O5: the fields of the word are those of the instruction, and they give the word back. -/
theorem decodedWordIsTheEncodingOfItsInstruction : Obligations.DecodedWordIsTheEncodingOfItsInstruction := by
  intro iset w i hi
  obtain ⟨f, hf, rfl⟩ := Option.map_eq_some_iff.mp hi
  obtain ⟨hiset, -⟩ := fieldsOfWord_some hf
  refine ⟨wf_classify f, by rw [iset_classify, hiset], ?_⟩
  rw [encode, fields_classify, encodeFields_of_fieldsOfWord hf]

/-- The top byte of an encoded word is the upper eight bits of its bits [31:23]. -/
theorem topByte_encodeFields (f : Fields) :
    (encodeFields f).extractLsb' 24 8 = f.iset.prefixBits.extractLsb' 1 8 := by
  obtain ⟨hprefix, -⟩ := segments_encodeFields f
  rw [← hprefix]
  apply BitVec.eq_of_getLsbD_eq
  intro i hi
  simp [hi, show i + 1 < 9 by omega, Nat.add_comm]

/-- Settles O12: the two words differ in bits [31:23] only, and bit 23 is 0 in both. -/
theorem t32WordIsTheA32WordWithItsTopByteChanged : Obligations.T32WordIsTheA32WordWithItsTopByteChanged := by
  intro f
  refine ⟨?_, by simp [topByte_encodeFields, ISet.prefixBits], by simp [topByte_encodeFields, ISet.prefixBits]⟩
  apply BitVec.eq_of_getLsbD_eq
  intro i hi
  simp only [encodeFields, BitVec.getLsbD_extractLsb', BitVec.getLsbD_append]
  interval_cases i <;> simp [ISet.prefixBits]

/-- Settles O11, word by word. -/
theorem sampleWordsDecodeAsTheirDiagramsSay : Obligations.SampleWordsDecodeAsTheirDiagramsSay := by
  unfold Obligations.SampleWordsDecodeAsTheirDiagramsSay
  decide

/-- No word has bits [31:23] of both instruction sets (rule R73, item 1). -/
theorem decodeWord_a32_or_t32_eq_none (w : BitVec 32) : decodeWord .a32 w = none ∨ decodeWord .t32 w = none := by
  by_cases h : w.extractLsb' 23 9 = ISet.prefixBits .a32
  · exact .inr (by simp [decodeWord, fieldsOfWord, h, ISet.prefixBits])
  · exact .inl (by simp [decodeWord, fieldsOfWord, h])

end Sys2Proof
end

section
/-! PROOFS. The decoder and the opcode table (30_encoding.md section 3). -/

namespace Sys2Proof

/-- Two words are equal exactly when their nine segments are. -/
theorem eq_iff_segments (v w : BitVec 32) :
    v = w ↔ v.extractLsb' 23 9 = w.extractLsb' 23 9 ∧ v.extractLsb' 22 1 = w.extractLsb' 22 1
      ∧ v.extractLsb' 20 2 = w.extractLsb' 20 2 ∧ v.extractLsb' 16 4 = w.extractLsb' 16 4
      ∧ v.extractLsb' 12 4 = w.extractLsb' 12 4 ∧ v.extractLsb' 8 4 = w.extractLsb' 8 4
      ∧ v.extractLsb' 6 2 = w.extractLsb' 6 2 ∧ v.extractLsb' 4 2 = w.extractLsb' 4 2
      ∧ v.extractLsb' 0 4 = w.extractLsb' 0 4 := by
  refine ⟨fun h => by simp [h], fun ⟨h1, h2, h3, h4, h5, h6, h7, h8, h9⟩ => ?_⟩
  rw [← append_segments v, h1, h2, h3, h4, h5, h6, h7, h8, h9, append_segments]

/-- A row hits an encoded word where its mask and value do, segment by segment. -/
theorem OpcodeRow.hit_encodeFields (r : OpcodeRow) (f : Fields) :
    r.hit f.iset (encodeFields f) = true ↔ r.iset = f.iset
      ∧ f.iset.prefixBits &&& r.mask.extractLsb' 23 9 = r.value.extractLsb' 23 9
      ∧ (BitVec.ofFin (w := 5) f.d).extractLsb' 4 1 &&& r.mask.extractLsb' 22 1 = r.value.extractLsb' 22 1
      ∧ 0b10#2 &&& r.mask.extractLsb' 20 2 = r.value.extractLsb' 20 2
      ∧ BitVec.ofFin (w := 4) f.n &&& r.mask.extractLsb' 16 4 = r.value.extractLsb' 16 4
      ∧ (BitVec.ofFin (w := 5) f.d).extractLsb' 0 4 &&& r.mask.extractLsb' 12 4 = r.value.extractLsb' 12 4
      ∧ f.shape.bits &&& r.mask.extractLsb' 8 4 = r.value.extractLsb' 8 4
      ∧ f.size.bits &&& r.mask.extractLsb' 6 2 = r.value.extractLsb' 6 2
      ∧ f.align.bits &&& r.mask.extractLsb' 4 2 = r.value.extractLsb' 4 2
      ∧ BitVec.ofFin (w := 4) f.m &&& r.mask.extractLsb' 0 4 = r.value.extractLsb' 0 4 := by
  obtain ⟨hp, hD, hl, hn, hVd, hit, hsz, hal, hm⟩ := segments_encodeFields f
  simp only [OpcodeRow.hit, Bool.and_eq_true, beq_iff_eq, eq_iff_segments, BitVec.extractLsb'_and, hp, hD, hl, hn, hVd,
    hit, hsz, hal, hm]

/-! The masked segments that tell the rows of one register list apart. -/

theorem AlignField.bits_mask_iff (align : AlignField) : align.bits &&& 3#2 = 3#2 ↔ align = .a256 := by
  cases align <;> decide

theorem SizeField.bits_mask_iff (size : SizeField) : size.bits &&& 3#2 = 3#2 ↔ size = .reserved := by
  cases size <;> decide

theorem GField.mask_eq_15_iff (n : GField) : BitVec.ofFin (w := 4) n &&& 15#4 = 15#4 ↔ n = 15 := by revert n; decide

theorem GField.mask_eq_13_iff (n : GField) : BitVec.ofFin (w := 4) n &&& 15#4 = 13#4 ↔ n = 13 := by revert n; decide

theorem DReg.mask_eq_31_iff (d : DReg) :
    (BitVec.ofFin (w := 5) d).extractLsb' 4 1 &&& 1#1 = 1#1 ∧ (BitVec.ofFin (w := 5) d).extractLsb' 0 4 &&& 15#4 = 15#4
      ↔ d = 31 := by
  revert d; decide

theorem DReg.mask_eq_30_iff (d : DReg) :
    (BitVec.ofFin (w := 5) d).extractLsb' 4 1 &&& 1#1 = 1#1 ∧ (BitVec.ofFin (w := 5) d).extractLsb' 0 4 &&& 14#4 = 14#4
      ↔ 30 ≤ d.val := by
  revert d; decide

theorem DReg.mask_eq_29_iff (d : DReg) :
    (BitVec.ofFin (w := 5) d).extractLsb' 4 1 &&& 1#1 = 1#1 ∧ (BitVec.ofFin (w := 5) d).extractLsb' 0 4 &&& 15#4 = 13#4
      ↔ d = 29 := by
  revert d; decide

/-- The first row that an encoded word belongs to is its instruction's: within one register list, the rows' masked
segments are the tests of `classify`, in its order. -/
theorem tableRow_encodeFields (f : Fields) : tableRow f.iset (encodeFields f) = some (classify f).row := by
  obtain ⟨iset, shape, size, align, d, n, m⟩ := f
  have hhit := fun r => OpcodeRow.hit_encodeFields r ⟨iset, shape, size, align, d, n, m⟩
  cases iset <;> cases shape <;>
    simp only [tableRow, opcodeTable, opcodeRowsA32, opcodeRowsT32, List.cons_append, List.nil_append,
      List.findIdx?_cons, hhit, classify, classifyA32, classifyT32] <;>
    simp only [ISet.prefixBits, Shape.bits] <;>
    simp [AlignField.bits_mask_iff, SizeField.bits_mask_iff, GField.mask_eq_15_iff, GField.mask_eq_13_iff,
      DReg.mask_eq_31_iff, DReg.mask_eq_30_iff, DReg.mask_eq_29_iff, -Option.map_eq_some_iff] <;>
    split_ifs <;> rfl

/-- The bits that every row of the table fixes: bits [31:23] of its set, `L` and bit 20, and as much of `itype` as
leaves only values that name a register list (rule R65). -/
def OpcodeRow.FixesPattern (r : OpcodeRow) : Prop :=
  r.mask.extractLsb' 23 9 = BitVec.allOnes 9 ∧ r.value.extractLsb' 23 9 = r.iset.prefixBits
  ∧ r.mask.extractLsb' 20 2 = BitVec.allOnes 2 ∧ r.value.extractLsb' 20 2 = 0b10#2
  ∧ ∀ itype : BitVec 4, itype &&& r.mask.extractLsb' 8 4 = r.value.extractLsb' 8 4 → Shape.ofBits itype ≠ none

theorem fixesPattern_of_mem_opcodeTable : ∀ r ∈ opcodeTable, r.FixesPattern := by
  unfold OpcodeRow.FixesPattern
  decide

/-- A word that a row of the table hits has fields. -/
theorem fieldsOfWord_isSome_of_hit {r : OpcodeRow} (hr : r ∈ opcodeTable) {iset : ISet} {w : BitVec 32}
    (h : r.hit iset w = true) : (fieldsOfWord iset w).isSome = true := by
  obtain ⟨hprefixMask, hprefix, hloadMask, hload, hitype⟩ := fixesPattern_of_mem_opcodeTable r hr
  simp only [OpcodeRow.hit, Bool.and_eq_true, beq_iff_eq, eq_iff_segments, BitVec.extractLsb'_and, hprefixMask,
    hprefix, hloadMask, hload, BitVec.and_allOnes] at h
  obtain ⟨rfl, hwprefix, -, hwload, -, -, hwitype, -⟩ := h
  obtain ⟨shape, hshape⟩ := Option.ne_none_iff_exists'.mp (hitype _ hwitype)
  simp [fieldsOfWord, hwprefix, hwload, hshape]

/-- Settles O6: a word with fields is the encoding of its instruction, which is in the instruction's row; a word
without fields is in no row. -/
theorem decoderFollowsOpcodeTablePriority : Obligations.DecoderFollowsOpcodeTablePriority := by
  intro iset w
  cases hf : fieldsOfWord iset w with
  | some f =>
    obtain ⟨rfl, -⟩ := fieldsOfWord_some hf
    simp only [decodeWord, hf, Option.map_some]
    rw [← tableRow_encodeFields, encodeFields_of_fieldsOfWord hf]
  | none =>
    simp only [decodeWord, hf, Option.map_none]
    refine (List.findIdx?_eq_none_iff.mpr fun r hr => ?_).symm
    by_contra hhit
    have hsome := fieldsOfWord_isSome_of_hit hr (by simpa using hhit)
    simp [hf] at hsome

end Sys2Proof
end

section
/-! PROOFS. What kind of word some fields make (30_encoding.md section 4), and the assembler forms (section 5). -/

namespace Sys2Proof.Machine

/-! ### The kind of an instruction, by its fields -/

/-- The decoder's UNPREDICTABLE rows: the tests of `Rn` and of the list come after those of `size` and `align` (rules
R74, R75). -/
theorem kindOf_classify_eq_unpredictable_iff (f : Fields) :
    kindOf (classify f) = .unpredictable ↔ ¬ UndefinedFields f ∧ UnpredictableFields f := by
  obtain ⟨iset, shape, size, align, d, n, m⟩ := f
  simp only [UndefinedFields, UnpredictableFields]
  cases iset <;> cases shape <;> simp only [classify, classifyA32, classifyT32] <;> split_ifs <;>
    simp_all [kindOf, Shape.twoRegs, pairSpacing, pairCount, Fin.ext_iff] <;> omega

/-- The loads are the words that are neither UNDEFINED nor UNPREDICTABLE: those whose decode gives operands. -/
theorem kindOf_classify_eq_load_iff (f : Fields) :
    kindOf (classify f) = .load ↔ ¬ UndefinedFields f ∧ ¬ UnpredictableFields f := by
  have hundef := kindOf_classify_eq_undefined_iff f
  have hunpred := kindOf_classify_eq_unpredictable_iff f
  cases hk : kindOf (classify f) <;> simp_all

/-- Settles O47: the decoder's UNPREDICTABLE rows, read back to the word's `Rn`, `D:Vd` and `itype` bits. -/
theorem unpredictableWordsAreExactlyThese : Obligations.UnpredictableWordsAreExactlyThese := by
  intro iset w i hi hdef
  obtain ⟨f, hf, rfl⟩ := Option.map_eq_some_iff.mp hi
  obtain ⟨-, hshape, -, -, hd, hn, -⟩ := fieldsOfWord_some hf
  have hdval : f.d.val = 16 * (w.extractLsb' 22 1).toNat + (w.extractLsb' 12 4).toNat := by rw [hd, val_toFin_append]
  have hnval : f.n.val = 15 ↔ w.extractLsb' 16 4 = 0b1111#4 := by rw [hn, BitVec.toNat_eq]; rfl
  rw [kindOf_classify_eq_unpredictable_iff, ← kindOf_classify_eq_undefined_iff, and_iff_right hdef, UnpredictableFields,
    hnval, ← hdval, ← Shape.bits_of_ofBits hshape]
  refine or_congr_right ?_
  cases f.shape <;> simp [Shape.bits, pairSpacing, pairCount] <;> omega

/-! ### Assembling (rules R78 to R80) -/

/-- What an assembler accepts: each part of the line gives its field, and the instruction is that of the fields. -/
theorem assemble_eq_some_iff (l : AsmLine) (i : Instr) :
    assemble l = some i ↔ asmConditionAllowed l.iset l.condition = true ∧ l.n.base = true
      ∧ ∃ size shape d align m, asmSize l.size = some size ∧ asmList l.list = some (shape, d)
        ∧ asmAlign shape l.align = some align ∧ asmForm l.form = some m
        ∧ classify ⟨l.iset, shape, size, align, d, l.n, m⟩ = i := by
  unfold assemble
  by_cases hallowed : asmConditionAllowed l.iset l.condition = true ∧ l.n.base = true
  · simp only [hallowed, Bool.and_self, if_true, true_and]
    cases asmSize l.size with
    | none => simp
    | some size =>
      rcases asmList l.list with _ | ⟨shape, d⟩
      · simp
      · cases halign : asmAlign shape l.align <;> cases asmForm l.form <;> simp [halign]
  · rw [if_neg (by simpa using hallowed)]
    simp only [reduceCtorEq, false_iff]
    exact fun ⟨hcondition, hbase, _⟩ => hallowed ⟨hcondition, hbase⟩

/-- The sizes that an assembler accepts (rule R80). -/
theorem asmSize_some {size : Nat} {z : SizeField} (h : asmSize size = some z) :
    (size = 8 ∨ size = 16 ∨ size = 32) ∧ z ≠ .reserved := by
  unfold asmSize at h
  split_ifs at h <;> simp_all <;> simp [← h]

/-- The lists that an assembler accepts are those that a shape and a first register make, none past D31 (rule R80). -/
theorem asmList_some {list : List Nat} {shape : Shape} {d : DReg} (h : asmList list = some (shape, d)) :
    list = listText shape d ∧ d.val + pairSpacing shape + pairCount shape ≤ 32 := by
  unfold asmList at h
  split at h
  next a b =>
    by_cases ha : a < 32
    · rw [dif_pos ha] at h
      split_ifs at h with hsingle hdouble
      · cases h
        simp [listText, pairSpacing, pairCount]; omega
      · cases h
        simp [listText, pairSpacing, pairCount]; omega
    · simp [ha] at h
  next a b c e =>
    by_cases ha : a < 32
    · rw [dif_pos ha] at h
      split_ifs at h with hfour
      cases h
      simp [listText, pairSpacing, pairCount]; omega
    · simp [ha] at h
  next => cases h

/-- The list of every shape and first register within D31 is accepted. -/
theorem asmList_listText {shape : Shape} {d : DReg} (h : d.val + pairSpacing shape + pairCount shape ≤ 32) :
    asmList (listText shape d) = some (shape, d) := by
  have hd := d.isLt
  cases shape <;> simp only [pairSpacing, pairCount] at h <;> simp [asmList, listText] <;> omega

/-- The alignments that an assembler accepts; 256 only with a four-register list (rule R80). -/
theorem asmAlign_some {shape : Shape} {align : Option Nat} {a : AlignField} (h : asmAlign shape align = some a) :
    (align = none ∨ align = some 64 ∨ align = some 128 ∨ (align = some 256 ∧ shape = .four))
      ∧ (a = .a256 → shape = .four) := by
  unfold asmAlign at h
  split at h
  · cases h; simp
  · split_ifs at h <;> simp_all <;> simp [← h]

/-- The addressing forms that an assembler accepts (rule R80). -/
theorem asmForm_some {form : AddressingForm} {m : GField} (h : asmForm form = some m) :
    form = formText m ∧ ∀ k, form = .index k → k.val ≠ 13 ∧ k.val ≠ 15 := by
  unfold asmForm at h
  split at h
  · cases h; simp [formText]
  · cases h; simp [formText]
  · split_ifs at h with hindex
    cases h
    rw [GField.index_iff] at hindex
    simpa [formText, hindex] using ⟨Fin.val_ne_of_ne hindex.1, Fin.val_ne_of_ne hindex.2⟩

@[simp] theorem asmForm_formText (m : GField) : asmForm (formText m) = some m := by
  unfold formText
  split_ifs with h15 h13
  · rw [h15]; rfl
  · rw [h13]; rfl
  · simp [asmForm, (GField.index_iff m).mpr ⟨h13, h15⟩]

theorem asmSize_of_sizeText {size : SizeField} {k : Nat} (h : sizeText size = some k) : asmSize k = some size := by
  cases size <;> cases h <;> rfl

theorem asmAlign_alignText {shape : Shape} {align : AlignField} (h : align = .a256 → shape = .four) :
    asmAlign shape (alignText align) = some align := by
  cases align <;> simp_all [asmAlign, alignText]

theorem eq_of_asmAlign_alignText {shape : Shape} {align a : AlignField}
    (h : asmAlign shape (alignText align) = some a) : a = align := by
  cases align <;> simp [asmAlign, alignText] at h <;> simp [← h]

/-- The parts that an assembler accepts make neither an UNDEFINED nor an UNPREDICTABLE word. -/
theorem kindOf_classify_of_asm {iset : ISet} {k : Nat} {list : List Nat} {al : Option Nat} {size : SizeField}
    {shape : Shape} {d : DReg} {align : AlignField} {n m : GField} (hn : n.base = true) (hsize : asmSize k = some size)
    (hlist : asmList list = some (shape, d)) (halign : asmAlign shape al = some align) :
    kindOf (classify ⟨iset, shape, size, align, d, n, m⟩) = .load := by
  obtain ⟨-, hdefined⟩ := asmSize_some hsize
  obtain ⟨-, hd⟩ := asmList_some hlist
  obtain ⟨-, h256⟩ := asmAlign_some halign
  rw [kindOf_classify_eq_load_iff]
  refine ⟨not_or.mpr ⟨hdefined, fun ⟨htwo, ha⟩ => ?_⟩, not_or.mpr ⟨?_, Nat.not_lt.mpr hd⟩⟩
  · exact (Shape.twoRegs_iff_ne_four shape).mp htwo (h256 ha)
  · exact Fin.val_ne_of_ne ((GField.base_iff n).mp hn)

/-- Settles O49: every part of an accepted line is one that its table accepts. -/
theorem assemblerRejectsWhatItMust : Obligations.AssemblerRejectsWhatItMust := by
  intro l i h
  obtain ⟨hcondition, hbase, size, shape, d, align, m, hsize, hlist, halign, hform, rfl⟩ :=
    (assemble_eq_some_iff l i).mp h
  obtain ⟨hsizes, -⟩ := asmSize_some hsize
  obtain ⟨hlistText, hd⟩ := asmList_some hlist
  obtain ⟨haligns, -⟩ := asmAlign_some halign
  obtain ⟨-, hindex⟩ := asmForm_some hform
  refine ⟨kindOf_classify_of_asm hbase hsize hlist halign, wf_classify _, iset_classify _, hsizes, ?_,
    Fin.val_ne_of_ne ((GField.base_iff l.n).mp hbase), ?_, hindex, ?_⟩
  · refine haligns.imp_right (Or.imp_right (Or.imp_right (And.imp_right ?_)))
    rintro rfl
    rw [hlistText]; rfl
  · rw [hlistText]
    cases shape <;> simp [listText, pairSpacing, pairCount] at hd ⊢ <;> omega
  · intro ha32
    cases hc : l.condition <;> simp_all [asmConditionAllowed]

/-! ### Disassembling -/

/-- The line that stands for some fields whose `size` is written as the given number (rules R78, R79). -/
def lineOf (f : Fields) (size : Nat) : AsmLine where
  iset := f.iset
  condition := none
  qualifier := none
  size := size
  list := listText f.shape f.d
  n := f.n
  align := alignText f.align
  separator := .colon
  form := formText f.m

/-- `disassemble` writes the line of the fields where an assembler accepts it. -/
theorem disassemble_of_sizeText {i : Instr} {size : Nat} (h : sizeText i.fields.size = some size) :
    disassemble i
      = if (assemble (lineOf i.fields size)).isSome then some (lineOf i.fields size) else none := by
  simp only [disassemble, h]; rfl

theorem sizeText_eq_none_iff (size : SizeField) : sizeText size = none ↔ size = .reserved := by cases size <;> decide

theorem listText_injective {shape shape' : Shape} {d d' : DReg} (h : listText shape d = listText shape' d') :
    shape = shape' ∧ d = d' := by
  cases shape <;> cases shape' <;> simp [listText, Fin.ext_iff] at h ⊢ <;> omega

/-- An assembler reads the fields of a line back, and accepts the line where they are those of a load. -/
theorem assemble_lineOf {f : Fields} {size : Nat} (hsize : sizeText f.size = some size) :
    assemble (lineOf f size) = if kindOf (classify f) = .load then some (classify f) else none := by
  split
  next hload =>
    obtain ⟨hdef, hpred⟩ := (kindOf_classify_eq_load_iff f).mp hload
    obtain ⟨-, halign⟩ := not_or.mp hdef
    obtain ⟨hbase, hlist⟩ := not_or.mp hpred
    have hfour : f.align = .a256 → f.shape = .four := fun h256 => by
      by_contra hne
      exact halign ⟨(Shape.twoRegs_iff_ne_four f.shape).mpr hne, h256⟩
    exact (assemble_eq_some_iff _ _).mpr ⟨rfl, (GField.base_iff f.n).mpr (Fin.ne_of_val_ne hbase), f.size, f.shape, f.d,
      f.align, f.m, asmSize_of_sizeText hsize, asmList_listText (Nat.not_lt.mp hlist), asmAlign_alignText hfour,
      asmForm_formText f.m, rfl⟩
  next hnot =>
    refine Option.eq_none_iff_forall_ne_some.mpr fun i h => hnot ?_
    obtain ⟨-, hbase, z, shape, d, align, m, hz, hlist, halign, -⟩ := (assemble_eq_some_iff _ _).mp h
    obtain rfl : f.size = z := Option.some.inj ((asmSize_of_sizeText hsize).symm.trans hz)
    obtain ⟨rfl, rfl⟩ := listText_injective (asmList_some hlist).1
    obtain rfl : align = f.align := eq_of_asmAlign_alignText halign
    exact kindOf_classify_of_asm hbase hz hlist halign

/-- Settles O48: the line of a load's fields is accepted and gives them back; that of any other instruction is not
accepted. -/
theorem disassembledLoadAssemblesBack : Obligations.DisassembledLoadAssemblesBack := by
  intro i hwf
  have hi := classify_fields_of_wf hwf
  cases hsize : sizeText i.fields.size with
  | none =>
    have hundef : kindOf i = .undefined := by
      rw [← hi, kindOf_classify_eq_undefined_iff]
      exact .inl ((sizeText_eq_none_iff _).mp hsize)
    simp [hundef, disassemble, hsize]
  | some size =>
    have hline := assemble_lineOf hsize
    rw [hi] at hline
    rw [disassemble_of_sizeText hsize, hline]
    refine ⟨fun hload => ⟨lineOf i.fields size, ?_, ?_⟩, fun hload => ?_⟩
    · simp [hload]
    · simp [hline, hload]
    · simp [hload]

end Sys2Proof.Machine
end

section
/-! PROOFS. The reset state, the fetch and the step (10_state.md sections 4 and 7; 20_memory.md sections 2 and 3). -/

namespace Sys2Proof.Machine

/-! ### The reset state -/

/-- Settles O1, field by field. -/
theorem resetHoldsTheModelsLaunchValues : Obligations.ResetHoldsTheModelsLaunchValues := by
  refine ⟨rfl, rfl, fun n => ?_, fun i => ?_, rfl, rfl, rfl, rfl, rfl, fun _ => rfl, fun _ => rfl, rfl, rfl, rfl, rfl,
    rfl⟩
  · simp [State.readR, State.reset]
  · by_cases hi : i < Config.numD <;> simp [State.readD, DRegs.get, State.reset, hi]

/-- Settles O2: no memory and a zero program counter. -/
theorem resetSatisfiesInvariant : Obligations.ResetSatisfiesInvariant := ⟨rfl, rfl, rfl⟩

/-! ### The invariant -/

/-- The advance keeps the alignment of the program counter, where it wraps too: both alignments divide 4 and 2^32. -/
theorem add_four_mod_fetchAlignment {pc : Word} {iset : ISet} (h : pc.toNat % fetchAlignment iset = 0) :
    (pc + 4#32).toNat % fetchAlignment iset = 0 := by
  rw [BitVec.toNat_add]
  cases iset <;> simp only [fetchAlignment, BitVec.toNat_ofNat] at h ⊢ <;> omega

/-- Settles O3: a step writes neither memory and advances the program counter by 4. -/
theorem stepKeepsInvariant : Obligations.StepKeepsInvariant := by
  intro s t hinv h
  obtain ⟨i, -, -, hexec⟩ := step_next h
  obtain ⟨hpc, -, hmem, htext, hiset⟩ := exec_next_context hexec
  exact ⟨hmem ▸ hinv.mem, htext ▸ hinv.text, by rw [hpc, hiset]; exact add_four_mod_fetchAlignment hinv.pc⟩

/-! ### What the fetch reads -/

/-- Where memory holds all the bytes, reading as far as it holds them reads them all. -/
theorem Memory.readUpTo_of_readBytes (m : Memory) : ∀ {a n : Nat} {bytes : List Byte},
    m.readBytes a n = some bytes → m.readUpTo a n = bytes
  | a, 0, bytes, h => by simpa [Memory.readBytes, Memory.readUpTo] using h
  | a, n + 1, bytes, h => by
    unfold Memory.readBytes at h
    split at h
    · cases h
    next b hb =>
      obtain ⟨rest, hrest, rfl⟩ := Option.map_eq_some_iff.mp h
      simp [Memory.readUpTo, hb, Memory.readUpTo_of_readBytes m hrest]

/-- Reading stops before a byte that memory does not hold. -/
theorem Memory.length_readUpTo_le (m : Memory) : ∀ {a k : Nat} (n : Nat),
    m.readByte (a + k) = none → (m.readUpTo a n).length ≤ k
  | _, _, 0, _ => Nat.zero_le _
  | a, k, n + 1, h => by
    unfold Memory.readUpTo
    split
    · exact Nat.zero_le _
    next b hb =>
      obtain _ | k := k
      · simp [hb] at h
      · have := Memory.length_readUpTo_le m (a := a + 1) (k := k) n (by rw [← h]; congr 1; omega)
        simpa using this

/-- Below the last four bytes of the address space the fetch reads a whole instruction's length. -/
theorem State.fetchBytes_of_inside {s : State} (h : s.pc.toNat + 4 ≤ 2 ^ 32) :
    s.fetchBytes = s.text.readUpTo s.pc.toNat 4 := by
  rw [State.fetchBytes, Nat.min_eq_left (by simp only [Config.instrBytes, Config.addressSpace]; omega)]

/-- What a step does at an aligned program counter, by what the decoder says of the bytes there. -/
theorem step_of_aligned {s : State} (h : s.pc.toNat % fetchAlignment s.iset = 0) :
    (∀ i rest, decode s.iset s.fetchBytes = .ok (i, rest) → step s = exec i s)
    ∧ (decode s.iset s.fetchBytes = .error .notThisInstruction → step s = .refused .notThisInstruction)
    ∧ (decode s.iset s.fetchBytes = .error .truncated →
        (s.pc.toNat + s.fetchBytes.length ≠ Config.addressSpace → step s = .refused .noInstruction)
        ∧ (s.pc.toNat + s.fetchBytes.length = Config.addressSpace → step s = .refused (.unmodelled .fetchWrap))) := by
  unfold step State.fetch
  rw [if_neg (not_not.mpr h)]
  refine ⟨fun i rest hd => by rw [hd], fun hd => by rw [hd]; rfl, fun hd => ⟨fun hlen => ?_, fun hlen => ?_⟩⟩
  · simp [hd, hlen, refuse]
  · simp [hd, hlen, refuse]

/-- Settles O39: the fetch reads the four bytes, and the step executes what they decode to. -/
theorem stepExecutesTheDecodedInstruction : Obligations.StepExecutesTheDecodedInstruction := by
  intro s bytes i rest haligned hinside hbytes hdecode
  obtain ⟨hexec, -⟩ := step_of_aligned haligned
  refine hexec i rest ?_
  rw [State.fetchBytes_of_inside hinside, Memory.readUpTo_of_readBytes _ hbytes, hdecode]

/-! ### Bytes that are no whole instruction (rule R81) -/

theorem decode_of_length_lt_two (iset : ISet) {bytes : List Byte} (h : bytes.length < 2) :
    decode iset bytes = .error .truncated := by
  match bytes, h with
  | [], _ => rfl
  | [_], _ => rfl

theorem decode_a32_of_length_lt_four {bytes : List Byte} (h : bytes.length < 4) :
    decode .a32 bytes = .error .truncated := by
  match bytes, h with
  | [], _ => rfl
  | [_], _ => rfl
  | [_, _], _ => rfl
  | [_, _, _], _ => rfl

/-- Bits [31:27] of every T32 word of the two patterns are 11111, so its first halfword begins a 32-bit instruction.
-/
theorem t32Wide_of_decodeWord {b0 b1 b2 b3 : Byte} {i : Instr}
    (h : decodeWord .t32 (wordOfBytes .t32 b0 b1 b2 b3) = some i) : t32Wide b1 = true := by
  obtain ⟨f, hf, -⟩ := Option.map_eq_some_iff.mp h
  obtain ⟨hbits, -⟩ := fieldsOfWord_fixedBits hf
  have hupper : b1.extractLsb' 3 5 = ((wordOfBytes .t32 b0 b1 b2 b3).extractLsb' 23 9).extractLsb' 4 5 := by
    apply BitVec.eq_of_getLsbD_eq
    intro k hk
    simp only [wordOfBytes, BitVec.getLsbD_extractLsb', BitVec.getLsbD_append]
    interval_cases k <;> simp
  rw [t32Wide, hupper, hbits]
  rfl

theorem decode_t32_narrow {b0 b1 : Byte} (h : t32Wide b1 = false) (rest : List Byte) :
    decode .t32 (b0 :: b1 :: rest) = .error .notThisInstruction := by
  match rest with
  | [] => simp [decode, h]
  | [_] => simp [decode, h]
  | b2 :: b3 :: rest =>
    have hnone : decodeWord .t32 (wordOfBytes .t32 b0 b1 b2 b3) = none := by
      by_contra hsome
      obtain ⟨i, hi⟩ := Option.ne_none_iff_exists'.mp hsome
      simp [t32Wide_of_decodeWord hi] at h
    simp [decode, hnone]

theorem decode_t32_wide {b0 b1 : Byte} (h : t32Wide b1 = true) {rest : List Byte} (hlen : rest.length < 2) :
    decode .t32 (b0 :: b1 :: rest) = .error .truncated := by
  match rest, hlen with
  | [], _ => simp [decode, h]
  | [_], _ => simp [decode, h]

/-- A first halfword that the program text holds is read. -/
theorem State.fetchBytes_of_halfword {s : State} {lower upper : Byte} (hinside : s.pc.toNat + 2 ≤ 2 ^ 32)
    (hlower : s.text.readByte s.pc.toNat = some lower) (hupper : s.text.readByte (s.pc.toNat + 1) = some upper) :
    s.fetchBytes = lower :: upper :: s.text.readUpTo (s.pc.toNat + 2) (min 2 (2 ^ 32 - 2 - s.pc.toNat)) := by
  obtain ⟨n, hn⟩ : ∃ n, min Config.instrBytes (Config.addressSpace - s.pc.toNat) = n + 2 :=
    ⟨min 2 (2 ^ 32 - 2 - s.pc.toNat), by simp only [Config.instrBytes, Config.addressSpace]; omega⟩
  have hn' : n = min 2 (2 ^ 32 - 2 - s.pc.toNat) := by
    simp only [Config.instrBytes, Config.addressSpace] at hn; omega
  rw [State.fetchBytes, hn, Memory.readUpTo, hlower, Memory.readUpTo, hupper, hn']

/-- The program text ends before the fetch is complete, and before the top of the address space. -/
theorem step_of_truncated {s : State} {k : Nat} (haligned : s.pc.toNat % fetchAlignment s.iset = 0)
    (hnone : s.text.readByte (s.pc.toNat + k) = none) (hk : s.pc.toNat + k < 2 ^ 32)
    (hdecode : s.fetchBytes.length ≤ k → decode s.iset s.fetchBytes = .error .truncated) :
    step s = .refused .noInstruction := by
  have hlen : s.fetchBytes.length ≤ k := Memory.length_readUpTo_le s.text _ hnone
  obtain ⟨-, -, htruncated⟩ := step_of_aligned haligned
  obtain ⟨hrefused, -⟩ := htruncated (hdecode hlen)
  exact hrefused (by simp only [Config.addressSpace]; omega)

/-- A misaligned program counter, whatever the program text holds there. -/
theorem step_of_misaligned {s : State} (h : s.pc.toNat % fetchAlignment s.iset ≠ 0) :
    step s = .refused (.unmodelled .misalignedPC) ∧ s.final = false := by
  constructor
  · simp [step, State.fetch, h, refuse]
  · simp [State.final, h]

/-- A T32 halfword that the program text holds, with no second halfword to go with it. -/
theorem step_of_loneHalfword {s : State} {lower upper : Byte} (hiset : s.iset = .t32) (heven : s.pc.toNat % 2 = 0)
    (hlower : s.text.readByte s.pc.toNat = some lower) (hupper : s.text.readByte (s.pc.toNat + 1) = some upper) :
    (t32Wide upper = false → step s = .refused .notThisInstruction)
    ∧ (t32Wide upper = true → s.pc.toNat + 4 ≤ 2 ^ 32 →
        (s.text.readByte (s.pc.toNat + 2) = none ∨ s.text.readByte (s.pc.toNat + 3) = none) →
        step s = .refused .noInstruction)
    ∧ (t32Wide upper = true → s.pc = 0xFFFFFFFE#32 → step s = .refused (.unmodelled .fetchWrap)) := by
  have haligned : s.pc.toNat % fetchAlignment s.iset = 0 := by rw [hiset]; exact heven
  have hbytes := State.fetchBytes_of_halfword (s := s) (by have := s.pc.isLt; omega) hlower hupper
  obtain ⟨-, hother, htruncated⟩ := step_of_aligned haligned
  refine ⟨fun hnarrow => hother ?_, fun hwide hinside hend => ?_, fun hwide hpc => ?_⟩
  · rw [hiset, hbytes, decode_t32_narrow hnarrow]
  · have hshort : ∀ k, k < 4 → s.fetchBytes.length ≤ k → decode s.iset s.fetchBytes = .error .truncated := by
      intro k hk hlen
      rw [hbytes, List.length_cons, List.length_cons] at hlen
      rw [hiset, hbytes, decode_t32_wide hwide (by omega)]
    obtain hend | hend := hend
    · exact step_of_truncated haligned hend (by omega) (hshort 2 (by omega))
    · exact step_of_truncated haligned hend (by omega) (hshort 3 (by omega))
  · have hpc : s.pc.toNat = 2 ^ 32 - 2 := by rw [hpc]; rfl
    have htwo : s.fetchBytes = [lower, upper] := by simp [hbytes, hpc, Memory.readUpTo]
    obtain ⟨-, hwrap⟩ := htruncated (by rw [hiset, htwo, decode_t32_wide hwide (by simp)])
    exact hwrap (by simp [htwo, hpc, Config.addressSpace])

/-- Settles O40, clause by clause: how many bytes the fetch reads, and what the decoder says of so few. -/
theorem stepRefusesWhatItCannotFetch : Obligations.StepRefusesWhatItCannotFetch := by
  intro s
  have hpc := s.pc.isLt
  refine ⟨step_of_misaligned, fun haligned hfinal => ?_, fun bytes haligned hinside hbytes hdecode => ?_,
    fun k hk hiset hmod hnone => ?_, fun k hk hiset hmod hnone => ?_,
    fun lower upper hiset heven hlower hupper => step_of_loneHalfword hiset heven hlower hupper⟩
  · obtain ⟨-, hnone⟩ := s.final_iff.mp hfinal
    exact step_of_truncated (k := 0) haligned hnone hpc fun hlen => decode_of_length_lt_two _ (by omega)
  · obtain ⟨-, hother, -⟩ := step_of_aligned haligned
    refine hother ?_
    rw [State.fetchBytes_of_inside hinside, Memory.readUpTo_of_readBytes _ hbytes, hdecode]
  · refine step_of_truncated (by rw [hiset]; exact hmod) hnone (by omega) fun hlen => ?_
    rw [hiset, decode_a32_of_length_lt_four (by omega)]
  · exact step_of_truncated (by rw [hiset]; exact hmod) hnone (by omega) fun hlen =>
      decode_of_length_lt_two _ (by omega)

/-! ### Placing a word (notes/assumptions/10.md) -/

/-- An instruction of the set can be fetched at the address at which its word is placed. -/
theorem placeAddress_spec (iset : ISet) (pc : Word) :
    (placeAddress iset pc).toNat % fetchAlignment iset = 0 ∧ (placeAddress iset pc).toNat + 4 ≤ 2 ^ 32 := by
  unfold placeAddress
  split
  next h => exact h
  next =>
    have hpc := pc.isLt
    have hdown : (alignDown pc Config.instrBytes).toNat = pc.toNat - pc.toNat % 4 := by
      rw [alignDown, BitVec.toNat_ofNat, Nat.mod_eq_of_lt (by simp only [Config.instrBytes]; omega)]
    rw [hdown]
    cases iset <;> simp only [fetchAlignment] <;> omega

@[simp] theorem length_bytesOfWord (iset : ISet) (w : BitVec 32) : (bytesOfWord iset w).length = 4 := by
  cases iset <;> rfl

/-- The bytes placed are the bytes fetched. -/
theorem State.fetchBytes_placeWord (s : State) (w : BitVec 32) :
    (s.placeWord w).fetchBytes = bytesOfWord (s.placeWord w).iset w := by
  obtain ⟨-, hinside⟩ := placeAddress_spec (s.placeWord w).iset s.pc
  have hread := Memory.readUpTo_writeBytes s.text (s.placeWord w).pc.toNat (bytesOfWord (s.placeWord w).iset w)
  rw [length_bytesOfWord] at hread
  rw [State.fetchBytes_of_inside hinside]
  exact hread

/-- Settles O41: the word is placed where its instruction set can fetch it. -/
theorem placedTableWordIsTheNextInstruction : Obligations.PlacedTableWordIsTheNextInstruction := by
  intro s w i h
  unfold decodeTableWord at h
  split at h
  · cases h
  next iset hiset =>
  split at h
  next _ rest hdecode =>
    cases h
    have hset : (s.placeWord (tableWord 32 w)).iset = iset := by simp [State.placeWord, hiset]
    obtain ⟨haligned, -⟩ := placeAddress_spec (s.placeWord (tableWord 32 w)).iset s.pc
    obtain ⟨hexec, -⟩ := step_of_aligned (s := s.placeWord (tableWord 32 w)) haligned
    exact hexec i rest (by rw [State.fetchBytes_placeWord, hset, hdecode])
  · cases h

/-! ### The condition table and the If-Then state -/

/-- Settles O42: the table condition by condition, and the cases of `conditionPassed`. -/
theorem conditionTableReadsTheFlags : Obligations.ConditionTableReadsTheFlags := by
  refine ⟨by decide, fun s => ⟨State.conditionPassed_of_a32, fun hiset hit => ?_, fun hiset hit => ?_⟩⟩
  · simp [State.conditionPassed, hiset, hit]
  · simp [State.conditionPassed, hiset, hit]

/-- Settles O43, bit by bit. -/
theorem itStateAdvanceShiftsTheMask : Obligations.ITStateAdvanceShiftsTheMask := by
  intro it
  unfold itAdvance
  refine ⟨fun h => if_pos h, fun h => ?_⟩
  rw [if_neg h]
  refine ⟨BitVec.extractLsb'_append_eq_left, ?_, ?_⟩
  · apply BitVec.eq_of_getLsbD_eq
    intro k hk
    simp only [BitVec.getLsbD_extractLsb', BitVec.getLsbD_append, BitVec.getLsbD_shiftLeft]
    interval_cases k <;> simp
  · rw [BitVec.getLsbD_append, if_pos (by decide)]
    simp

/-! ### The other views of the SIMD&FP registers (rule R23) -/

/-- Settles O50: `Q[i]` is two registers side by side, and `S` picks a half by the parity of its number. -/
theorem wideAndNarrowViewsShareTheDRegisters : Obligations.WideAndNarrowViewsShareTheDRegisters := by
  intro s i
  have hodd : (2 * i.val + 1) / 2 = i.val := by omega
  refine ⟨BitVec.extractLsb'_append_eq_right, BitVec.extractLsb'_append_eq_left, ?_, ?_⟩
  · simp [State.readS]
  · simp [State.readS, hodd]

/-! ### The two instruction sets -/

/-- Settles O51: the shared operation tests the instruction set first, and the two sets' words differ in bits [31:23].
-/
theorem instructionOfTheOtherSetIsRefused : Obligations.InstructionOfTheOtherSetIsRefused := by
  refine ⟨fun i s hiset => ?_, decodeWord_a32_or_t32_eq_none⟩
  have hfields : s.iset ≠ i.fields.iset := hiset
  rw [exec_eq_execFields, execFields, if_pos hfields]
  rfl

end Sys2Proof.Machine
end

section
/-! PROOFS. The stops before the access: the decode's, the enable check's, and what a failed condition does
(60_exceptions.md sections 1 and 3; 40_vld2_multiple.md sections 3 and 5). -/

namespace Sys2Proof.Machine

/-! ### What the decode answers for each kind of instruction -/

theorem decodeOperands_of_undefined {i : Instr} (hwf : i.wf = true) (hk : kindOf i = .undefined) :
    decodeOperands i.fields = .error (.fault .undefined) := by
  rw [← classify_fields_of_wf hwf, kindOf_classify_eq_undefined_iff] at hk
  exact (decodeOperands_eq_undefined_iff _).mpr hk

theorem exists_decodeOperands_of_unpredictable {i : Instr} (hwf : i.wf = true) (hk : kindOf i = .unpredictable) :
    ∃ reason, decodeOperands i.fields = .error (.refusal (.unpredictable reason)) := by
  rw [← classify_fields_of_wf hwf, kindOf_classify_eq_unpredictable_iff] at hk
  exact decodeOperands_eq_unpredictable hk.1 hk.2

theorem exists_decodeOperands_of_load {i : Instr} (hwf : i.wf = true) (hk : kindOf i = .load) :
    ∃ p, decodeOperands i.fields = .ok p := by
  rw [← classify_fields_of_wf hwf, kindOf_classify_eq_load_iff] at hk
  exact exists_decodeOperands_ok hk.1 hk.2

/-- The decode gives an instruction operands only if it is a load. -/
theorem kindOf_eq_load_of_decodeOperands {i : Instr} {p : LoadOperands} (hwf : i.wf = true)
    (hp : decodeOperands i.fields = .ok p) : kindOf i = .load := by
  cases hk : kindOf i with
  | undefined => simp [decodeOperands_of_undefined hwf hk] at hp
  | unpredictable =>
    obtain ⟨reason, hreason⟩ := exists_decodeOperands_of_unpredictable hwf hk
    simp [hreason] at hp
  | load => rfl

/-- The reason of an UNPREDICTABLE word is one that the word has (rule R132). -/
theorem decodeOperands_unpredictable_reason {f : Fields} {reason : UnpredictableReason}
    (h : decodeOperands f = .error (.refusal (.unpredictable reason))) :
    (f.n.val = 15 ∧ reason = .baseIsPC) ∨ ((∃ k ∈ listed f.shape f.d.val, 31 < k) ∧ reason = .listPastD31) := by
  unfold decodeOperands at h
  split at h
  · cases h
  split at h
  · cases h
  split at h
  next =>
    split at h
    next hlist =>
      cases h
      refine .inr ⟨⟨f.d.val + pairSpacing f.shape + pairCount f.shape - 1, ?_, by omega⟩, rfl⟩
      cases f.shape <;> simp [listed, pairSpacing, pairCount]
    next => cases h
  next hn =>
    cases h
    exact .inl ⟨by have := f.n.isLt; simp only [Config.numR] at hn; omega, rfl⟩

/-! ### The early stop -/

theorem earlyStop_of_enabled {f : Fields} {s : State} (h : s.simdAccess = .enabled) : earlyStop f s = decodeStop f := by
  rw [earlyStop, State.simdStop_of_enabled h]
  cases decodeStop f <;> rfl

theorem earlyStop_of_operands {f : Fields} {s : State} {p : LoadOperands} (h : decodeOperands f = .ok p) :
    earlyStop f s = s.simdStop := by
  rw [earlyStop, decodeStop_none.mpr ⟨p, h⟩]
  cases s.simdStop <;> rfl

/-- Where the decode and the enable check would both stop, one of the two does (decision D25). -/
theorem earlyStop_either {f : Fields} {s : State} {a b : Stop} (ha : decodeStop f = some a) (hb : s.simdStop = some b) :
    earlyStop f s = some a ∨ earlyStop f s = some b := by
  simp only [earlyStop, ha, hb]
  split_ifs <;> simp

theorem State.simdStop_eq_none_iff {s : State} : s.simdStop = none ↔ s.simdAccess = .enabled := by
  obtain ⟨he, hstop⟩ | ⟨he, hstop⟩ | ⟨he, hstop⟩ := s.simdStop_cases <;> simp [he, hstop]

theorem earlyStop_eq_none_iff {f : Fields} {s : State} :
    earlyStop f s = none ↔ (∃ p, decodeOperands f = .ok p) ∧ s.simdAccess = .enabled := by
  rw [← decodeStop_none, ← State.simdStop_eq_none_iff]
  cases ha : decodeStop f with
  | none => cases hb : s.simdStop <;> simp [earlyStop, ha, hb]
  | some a =>
    cases hb : s.simdStop with
    | none => simp [earlyStop, ha, hb]
    | some b => obtain h | h := earlyStop_either ha hb <;> simp [h]

/-- The early stop depends on the decode's answer, the enable check and the counter of free choices, and on nothing
else. -/
theorem earlyStop_congr {f g : Fields} {s t : State} (hdecode : decodeOperands g = decodeOperands f)
    (hstop : t.simdStop = s.simdStop) (hfree : t.freeIndex = s.freeIndex) : earlyStop g t = earlyStop f s := by
  simp only [earlyStop, decodeStop, hdecode, hstop, hfree]

/-! ### The outcome, by the condition and the early stop -/

theorem exec_of_passed_stop {i : Instr} {s : State} {stop : Stop} (hi : s.iset = i.iset)
    (hc : s.conditionPassed = true) (hstop : earlyStop i.fields s = some stop) : exec i s = stop.outcome := by
  have hi : s.iset = i.fields.iset := hi
  simp [exec_eq_execFields, execFields, hi, hc, execPassed, hstop]

theorem exec_of_load {i : Instr} {s : State} {p : LoadOperands} (hi : s.iset = i.iset) (hc : s.conditionPassed = true)
    (he : s.simdAccess = .enabled) (hp : decodeOperands i.fields = .ok p) : exec i s = loadAccess p s := by
  rw [exec_eq_execFields, execFields_of_enabled hi hc he hp]

theorem exec_of_failed {i : Instr} {s : State} (hi : s.iset = i.iset) (hc : s.conditionPassed = false) :
    exec i s = execFailed i.fields s := by
  have hi : s.iset = i.fields.iset := hi
  simp [exec_eq_execFields, execFields, hi, hc]

/-- The advance, as one update of the state (rules R24, R27). -/
theorem State.finish_eq (s : State) : s.finish = { s with pc := s.pc + 4#32, itstate := s.nextIT } := by
  cases h : s.iset <;> simp [State.finish, State.advanceIT, State.advancePC, State.nextIT, h]

theorem State.finish_of_t32 {s : State} (h : s.iset = .t32) :
    s.finish = { s with pc := s.pc + 4#32, itstate := itAdvance s.itstate } := by
  rw [State.finish_eq, State.nextIT_of_t32 h]

/-- Settles O20: no early stop, so a failed condition only advances. -/
theorem failedConditionOnlyAdvances : Obligations.FailedConditionOnlyAdvances := by
  intro i s hwf hk hi hs hc he
  have hstop : earlyStop i.fields s = none := earlyStop_eq_none_iff.mpr ⟨exists_decodeOperands_of_load hwf hk, he⟩
  simp only [exec_of_failed (hs.trans hi.symm) hc, execFailed, hstop, State.finish_of_t32 hs]

/-- A word that stops, or a load that is not enabled, has an early stop. -/
theorem exists_earlyStop {i : Instr} {s : State} (hwf : i.wf = true) (h : kindOf i ≠ .load ∨ s.simdAccess ≠ .enabled) :
    ∃ stop, earlyStop i.fields s = some stop := by
  rw [← Option.ne_none_iff_exists', Ne, earlyStop_eq_none_iff, not_and_or]
  exact h.imp_left fun hk ⟨p, hp⟩ => hk (kindOf_eq_load_of_decodeOperands hwf hp)

/-- Such a word where its condition fails: outside the IT block it stops, and inside it does the same or only
advances, as the choice says (decision D23). -/
theorem exec_of_failed_stop {i : Instr} {s : State} (hwf : i.wf = true) (hi : i.iset = .t32) (hs : s.iset = .t32)
    (hc : s.conditionPassed = false) (h : kindOf i ≠ .load ∨ s.simdAccess ≠ .enabled) :
    (∀ t, exec i { s with itstate := 0#8 } ≠ .next t)
    ∧ exec i s = if s.condFailStops then exec i { s with itstate := 0#8 }
        else .next { s with pc := s.pc + 4#32, itstate := itAdvance s.itstate, freeIndex := s.freeIndex + 1 } := by
  obtain ⟨stop, hstop⟩ := exists_earlyStop hwf h
  have houtside : exec i { s with itstate := 0#8 } = stop.outcome :=
    exec_of_passed_stop (s := { s with itstate := 0#8 }) (hs.trans hi.symm) (by simp [State.conditionPassed, hs])
      ((earlyStop_congr rfl rfl rfl).trans hstop)
  refine ⟨fun t ht => Stop.outcome_ne_next stop t (houtside ▸ ht), ?_⟩
  rw [houtside, exec_of_failed (hs.trans hi.symm) hc, execFailed, hstop]
  simp only [State.finish_of_t32 (s := s.takeChoice) hs]
  rfl

/-- Settles O21: both values of the choice. -/
theorem failedConditionOfAStoppingWordAdvancesOrStops : Obligations.FailedConditionOfAStoppingWordAdvancesOrStops := by
  intro i s hwf hi hs hc h
  obtain ⟨hstops, hexec⟩ := exec_of_failed_stop hwf hi hs hc h
  refine ⟨hstops, ?_⟩
  rw [hexec]
  cases s.condFailStops
  · exact .inl rfl
  · exact .inr rfl

/-- Settles O53: the choice that the launch state lists is the no-op. -/
theorem stoppingT32WordsCompleteWhereTheirConditionFails :
    Obligations.StoppingT32WordsCompleteWhereTheirConditionFails := by
  intro i s hwf hi hs hc h hchoice
  have hfalse : s.condFailStops = false := by simp [State.condFailStops, hchoice]
  obtain ⟨-, hexec⟩ := exec_of_failed_stop hwf hi hs hc h
  rw [hexec, hfalse]
  rfl

/-- Settles O54: the choice that the launch state lists is the stop. -/
theorem stoppingT32WordsStopWhereTheChoiceSaysSo : Obligations.StoppingT32WordsStopWhereTheChoiceSaysSo := by
  intro i s hwf hi hs hc h hchoice
  have htrue : s.condFailStops = true := by simp [State.condFailStops, hchoice]
  obtain ⟨hstops, hexec⟩ := exec_of_failed_stop hwf hi hs hc h
  rw [htrue, if_pos rfl] at hexec
  exact ⟨hexec, hexec ▸ hstops⟩

/-! ### The stops of a passed condition -/

/-- Where the decode and the enable check would both stop an instruction, its outcome is one of theirs (decision D25).
-/
theorem exec_of_both_stops {i : Instr} {s : State} {a b : Stop} (hi : s.iset = i.iset) (hc : s.conditionPassed = true)
    (ha : decodeOperands i.fields = .error a) (hb : s.simdStop = some b) :
    exec i s = a.outcome ∨ exec i s = b.outcome :=
  (earlyStop_either (decodeStop_error ha) hb).imp (exec_of_passed_stop hi hc) (exec_of_passed_stop hi hc)

/-- Where Advanced SIMD is enabled the decode's stop is the outcome. -/
theorem exec_of_decode_stop {i : Instr} {s : State} {a : Stop} (hi : s.iset = i.iset) (hc : s.conditionPassed = true)
    (ha : decodeOperands i.fields = .error a) (he : s.simdAccess = .enabled) : exec i s = a.outcome :=
  exec_of_passed_stop hi hc ((earlyStop_of_enabled he).trans (decodeStop_error ha))

theorem State.simdStop_of_undefined {s : State} (h : s.simdAccess = .undefined) :
    s.simdStop = some (.fault .undefined) := by simp [State.simdStop, h]

theorem State.simdStop_of_hypTrap {s : State} (h : s.simdAccess = .hypTrap) : s.simdStop = some (.fault .hypTrap) := by
  simp [State.simdStop, h]

/-- Settles O22: the decode raises Undefined, and so does the enable check where it stops at all. -/
theorem undefinedWordsRaiseUndefined : Obligations.UndefinedWordsRaiseUndefined := by
  intro i s hwf hk hi hc hhyp
  have hdecode := decodeOperands_of_undefined hwf hk
  cases he : s.simdAccess with
  | enabled => exact exec_of_decode_stop hi hc hdecode he
  | undefined => exact (or_self_iff.mp (exec_of_both_stops hi hc hdecode (State.simdStop_of_undefined he)))
  | hypTrap => exact absurd he hhyp

/-- Settles O23: the decode refuses with its own reason. -/
theorem unpredictableWordsAreRefused : Obligations.UnpredictableWordsAreRefused := by
  intro i s hwf hk hi hc he
  obtain ⟨reason, hreason⟩ := exists_decodeOperands_of_unpredictable hwf hk
  have hexec := exec_of_decode_stop hi hc hreason he
  obtain ⟨hn, rfl⟩ | ⟨hlist, rfl⟩ := decodeOperands_unpredictable_reason hreason
  · exact .inl ⟨hn, hexec⟩
  · exact .inr ⟨hlist, hexec⟩

/-- Settles O24: either stop, for each pair of them. -/
theorem decodeStopAndEnableStopAreBothAdmitted : Obligations.DecodeStopAndEnableStopAreBothAdmitted := by
  intro i s hwf hi hc
  refine ⟨fun hk he => ?_, fun hk he => ?_, fun hk he => ?_⟩
  · exact exec_of_both_stops hi hc (decodeOperands_of_undefined hwf hk) (State.simdStop_of_hypTrap he)
  · obtain ⟨reason, hreason⟩ := exists_decodeOperands_of_unpredictable hwf hk
    exact (exec_of_both_stops hi hc hreason (State.simdStop_of_hypTrap he)).imp_left fun h => ⟨reason, h⟩
  · obtain ⟨reason, hreason⟩ := exists_decodeOperands_of_unpredictable hwf hk
    exact (exec_of_both_stops hi hc hreason (State.simdStop_of_undefined he)).imp_left fun h => ⟨reason, h⟩

/-- Settles O25: a load's only early stop is the enable check's. -/
theorem enableCheckStopsEveryLoad : Obligations.EnableCheckStopsEveryLoad := by
  intro i s hwf hk hi hc
  obtain ⟨p, hp⟩ := exists_decodeOperands_of_load hwf hk
  have hstop := earlyStop_of_operands (s := s) hp
  refine ⟨fun he => ?_, fun he => ?_⟩
  · exact exec_of_passed_stop hi hc (hstop.trans (State.simdStop_of_undefined he))
  · exact exec_of_passed_stop hi hc (hstop.trans (State.simdStop_of_hypTrap he))

end Sys2Proof.Machine
end

section
/-! PROOFS. The element loops as a sequence of reads (40_vld2_multiple.md section 3): when they complete, which read
stops them, and what they depend on. -/

namespace Sys2Proof.Machine

/-! ### One element read -/

theorem State.readable_iff_readBytes {s : State} {a n : Nat} :
    s.readable a n ↔ (s.mem.readBytes a n).isSome = true :=
  (Memory.readBytes_isSome s.mem a n).symm

theorem State.memRead_of_readable {s : State} {a : Word} {n : Nat} (halign : s.strictAlign = true → a.toNat % n = 0)
    (h : s.readable a.toNat n) : s.memRead a n = .ok (s.elementAt a.toNat n) := by
  rw [State.readable_iff_readBytes] at h
  obtain ⟨hstrict, hmis, -⟩ | ⟨-, -, hok⟩ | ⟨-, hnone, -⟩ := s.memRead_cases a n
  · exact absurd (halign hstrict) hmis
  · exact hok
  · simp [hnone] at h

theorem State.memRead_of_not_readable {s : State} {a : Word} {n : Nat}
    (halign : s.strictAlign = true → a.toNat % n = 0) (h : ¬ s.readable a.toNat n) :
    s.memRead a n = .error (.notHeld a) := by
  rw [State.readable_iff_readBytes] at h
  obtain ⟨hstrict, hmis, -⟩ | ⟨-, hsome, -⟩ | ⟨-, -, herror⟩ := s.memRead_cases a n
  · exact absurd (halign hstrict) hmis
  · exact absurd hsome h
  · exact herror

theorem State.memRead_of_misaligned {s : State} {a : Word} {n : Nat} (hstrict : s.strictAlign = true)
    (h : a.toNat % n ≠ 0) : s.memRead a n = .error (.misaligned a) := by
  simp [State.memRead, hstrict, h]

/-- Two states whose element reads within a footprint cannot be told apart: they agree on its bytes and on the
parameters of a read (rules R42, R45, R56). -/
structure SameFootprint (s t : State) (base len : Nat) : Prop where
  strictAlign : t.strictAlign = s.strictAlign
  bigEndian : t.bigEndian = s.bigEndian
  bytes : ∀ c, base ≤ c → c < base + len → t.mem.readByte c = s.mem.readByte c

theorem SameFootprint.readBytes {s t : State} {base len a n : Nat} (h : SameFootprint s t base len) (hlow : base ≤ a)
    (hhigh : a + n ≤ base + len) : t.mem.readBytes a n = s.mem.readBytes a n :=
  Memory.readBytes_congr _ _ _ _ fun c h1 h2 => h.bytes c (by omega) (by omega)

theorem SameFootprint.memRead {s t : State} {base len : Nat} {a : Word} {n : Nat} (h : SameFootprint s t base len)
    (hlow : base ≤ a.toNat) (hhigh : a.toNat + n ≤ base + len) : t.memRead a n = s.memRead a n := by
  simp only [State.memRead, h.strictAlign, h.bigEndian, h.readBytes hlow hhigh]

theorem SameFootprint.elementAt {s t : State} {base len a n : Nat} (h : SameFootprint s t base len) (hlow : base ≤ a)
    (hhigh : a + n ≤ base + len) : t.elementAt a n = s.elementAt a n := by
  simp only [State.elementAt, h.bigEndian, h.readBytes hlow hhigh]

/-- An address inside the address space does not wrap. -/
theorem toNat_add_ofNat {a : Word} {n : Nat} (h : a.toNat + n < 2 ^ 32) :
    (a + BitVec.ofNat 32 n).toNat = a.toNat + n := by
  rw [BitVec.toNat_add, BitVec.toNat_ofNat, Nat.mod_eq_of_lt (a := n) (by omega), Nat.mod_eq_of_lt h]

/-! ### A sequence of element reads -/

/-- `n` element reads, each after the one before, up to the first that is not completed. -/
def readElements (s : State) (ebytes : Nat) : Nat → Word → Except ReadFault Unit
  | 0, _ => .ok ()
  | n + 1, a => s.memRead a ebytes >>= fun _ => readElements s ebytes n (a + BitVec.ofNat 32 ebytes)

theorem add_ofNat_mul_succ (a : Word) (ebytes k : Nat) :
    a + BitVec.ofNat 32 ebytes + BitVec.ofNat 32 (ebytes * k) = a + BitVec.ofNat 32 (ebytes * (k + 1)) := by
  rw [BitVec.add_assoc, ← BitVec.ofNat_add, Nat.mul_succ, Nat.add_comm ebytes]

theorem readElements_add (s : State) (ebytes n : Nat) : ∀ (m : Nat) (a : Word),
    readElements s ebytes (m + n) a
      = readElements s ebytes m a >>= fun _ => readElements s ebytes n (a + BitVec.ofNat 32 (ebytes * m))
  | 0, a => by simp [readElements, Bind.bind, Except.bind]
  | m + 1, a => by
    rw [Nat.add_right_comm, readElements, readElements, bind_assoc]
    simp only [readElements_add s ebytes n m, add_ofNat_mul_succ]

/-- Where every element can be read, the sequence completes. -/
theorem readElements_ok {s : State} {ebytes : Nat} : ∀ {n : Nat} {a : Word},
    (∀ k < n, ∃ x, s.memRead (a + BitVec.ofNat 32 (ebytes * k)) ebytes = .ok x) → readElements s ebytes n a = .ok ()
  | 0, _, _ => rfl
  | n + 1, a, h => by
    obtain ⟨x, hx⟩ := h 0 n.succ_pos
    rw [Nat.mul_zero, BitVec.add_zero] at hx
    rw [readElements, hx]
    refine readElements_ok (n := n) fun k hk => ?_
    rw [add_ofNat_mul_succ]
    exact h (k + 1) (Nat.succ_lt_succ hk)

/-- The first element that cannot be read stops the sequence. -/
theorem readElements_error {s : State} {ebytes : Nat} {r : ReadFault} : ∀ {n k : Nat} {a : Word}, k < n →
    (∀ j < k, ∃ x, s.memRead (a + BitVec.ofNat 32 (ebytes * j)) ebytes = .ok x) →
    s.memRead (a + BitVec.ofNat 32 (ebytes * k)) ebytes = .error r → readElements s ebytes n a = .error r
  | n + 1, 0, a, _, _, hr => by
    rw [Nat.mul_zero, BitVec.add_zero] at hr
    rw [readElements, hr]; rfl
  | n + 1, k + 1, a, hk, h, hr => by
    obtain ⟨x, hx⟩ := h 0 k.succ_pos
    rw [Nat.mul_zero, BitVec.add_zero] at hx
    rw [readElements, hx]
    refine readElements_error (n := n) (k := k) (Nat.lt_of_succ_lt_succ hk) (fun j hj => ?_) ?_
    · rw [add_ofNat_mul_succ]
      exact h (j + 1) (Nat.succ_lt_succ hj)
    · rw [add_ofNat_mul_succ]
      exact hr

/-- The sequence depends on nothing but its reads. -/
theorem readElements_congr {s t : State} {ebytes : Nat} : ∀ {n : Nat} {a : Word},
    (∀ k < n, t.memRead (a + BitVec.ofNat 32 (ebytes * k)) ebytes = s.memRead (a + BitVec.ofNat 32 (ebytes * k)) ebytes) →
    readElements t ebytes n a = readElements s ebytes n a
  | 0, _, _ => rfl
  | n + 1, a, h => by
    have hfirst := h 0 n.succ_pos
    rw [Nat.mul_zero, BitVec.add_zero] at hfirst
    rw [readElements, readElements, hfirst, readElements_congr (n := n) fun k hk => ?_]
    rw [add_ofNat_mul_succ]
    exact h (k + 1) (Nat.succ_lt_succ hk)

/-! ### The loops read their elements in sequence -/

theorem loadStructures_address {s : State} {ebytes i j : Nat} : ∀ {k e : Nat} {a : Word} {v v' : DRegs} {a' : Word},
    loadStructures s ebytes i j k e a v = .ok (v', a') → a' = a + BitVec.ofNat 32 (ebytes * (2 * k))
  | 0, _, _, _, _, _, h => by cases h; simp
  | k + 1, e, a, v, v', a', h => by
    unfold loadStructures at h
    split at h
    · cases h
    split at h
    · cases h
    rw [loadStructures_address h, BitVec.add_assoc, ← BitVec.ofNat_add]
    congr 2; ring

/-- The inner loop reads two elements for each structure. -/
theorem loadStructures_map (s : State) (ebytes i j : Nat) : ∀ (k e : Nat) (a : Word) (v : DRegs),
    (loadStructures s ebytes i j k e a v).map (fun _ => ()) = readElements s ebytes (2 * k) a
  | 0, _, _, _ => rfl
  | k + 1, e, a, v => by
    have htwo : a + BitVec.ofNat 32 ebytes + BitVec.ofNat 32 ebytes = a + BitVec.ofNat 32 (2 * ebytes) := by
      rw [BitVec.add_assoc, ← BitVec.ofNat_add, Nat.two_mul]
    rw [Nat.mul_succ, readElements, readElements, htwo, loadStructures]
    cases s.memRead a ebytes with
    | error r => rfl
    | ok x =>
      simp only
      cases s.memRead (a + BitVec.ofNat 32 ebytes) ebytes with
      | error r => rfl
      | ok y => exact loadStructures_map s ebytes i j k _ _ _

/-- The outer loop reads the elements of all its pairs. -/
theorem loadPairs_map (s : State) (p : LoadOperands) : ∀ (k r : Nat) (a : Word) (v : DRegs),
    (loadPairs s p k r a v).map (fun _ => ()) = readElements s p.ebytes (2 * p.elements * k) a
  | 0, _, _, _ => rfl
  | k + 1, r, a, v => by
    have hfirst := loadStructures_map s p.ebytes (p.d + r) (p.d2 + r) p.elements 0 a v
    rw [Nat.mul_succ, Nat.add_comm (2 * p.elements * k), readElements_add, ← hfirst, loadPairs]
    split
    next x hx => rw [hx]; rfl
    next v' a' hok =>
      rw [hok, loadStructures_address hok]
      exact loadPairs_map s p k _ _ _

end Sys2Proof.Machine
end

section
/-! PROOFS. What the element loads of decoded operands do to the SIMD&FP registers, and what they depend on (rules
R97, R100, R101). -/

namespace Sys2Proof.Machine

/-! ### Decoded operands -/

/-- The lanes of decoded operands fill a register, and the elements of all the pairs fill the footprint. -/
theorem lanes_of_operands {f : Fields} {p : LoadOperands} (hp : decodeOperands f = .ok p) :
    LaneWidth (8 * p.ebytes) ∧ p.ebytes * p.elements = 8 ∧ p.ebytes * (2 * p.elements * p.regs) = p.bytes := by
  obtain ⟨-, hbytes, -⟩ := decodeOperands_ok hp
  obtain ⟨hwidth, hfill⟩ := elementBytes_width hbytes
  have hfill : p.ebytes * p.elements = 8 := hfill
  refine ⟨hwidth, hfill, ?_⟩
  calc p.ebytes * (2 * p.elements * p.regs) = 2 * (p.ebytes * p.elements) * p.regs := by ring
    _ = p.bytes := by rw [hfill, LoadOperands.bytes]

/-- The footprint holds every element. -/
theorem element_inside {f : Fields} {p : LoadOperands} (hp : decodeOperands f = .ok p) {k : Nat}
    (hk : k < 2 * p.elements * p.regs) : p.ebytes * k + p.ebytes ≤ p.bytes := by
  obtain ⟨-, -, htotal⟩ := lanes_of_operands hp
  calc p.ebytes * k + p.ebytes = p.ebytes * (k + 1) := by ring
    _ ≤ p.ebytes * (2 * p.elements * p.regs) := Nat.mul_le_mul_left _ hk
    _ = p.bytes := htotal

theorem ebytes_pos_of_operands {f : Fields} {p : LoadOperands} (hp : decodeOperands f = .ok p) : 0 < p.ebytes := by
  obtain ⟨-, hfill, -⟩ := lanes_of_operands hp
  exact Nat.pos_of_ne_zero fun h0 => by simp [h0] at hfill

/-- There is an element to read. -/
theorem reads_pos_of_operands {f : Fields} {p : LoadOperands} (hp : decodeOperands f = .ok p) :
    0 < 2 * p.elements * p.regs := by
  obtain ⟨hregs, -⟩ := decodeOperands_ok hp
  obtain ⟨-, -, htotal⟩ := lanes_of_operands hp
  have hpairs : 0 < pairCount f.shape := by cases f.shape <;> decide
  refine Nat.pos_of_ne_zero fun h0 => ?_
  rw [h0, LoadOperands.bytes, hregs] at htotal
  omega

/-- The address of an element inside the address space does not wrap. -/
theorem toNat_element {f : Fields} {p : LoadOperands} (hp : decodeOperands f = .ok p) {a : Word}
    (hin : a.toNat + p.bytes ≤ Config.addressSpace) {k : Nat} (hk : k < 2 * p.elements * p.regs) :
    (a + BitVec.ofNat 32 (p.ebytes * k)).toNat = a.toNat + p.ebytes * k := by
  have hinside := element_inside hp hk
  have hpos := ebytes_pos_of_operands hp
  exact toNat_add_ofNat (by simp only [Config.addressSpace] at hin; omega)

/-- What the loads of decoded operands leave in the registers: the listed ones hold the elements, the others are
unchanged (rules R100, R101). -/
theorem loadPairs_ok_of_operands {f : Fields} {p : LoadOperands} (hp : decodeOperands f = .ok p) {s : State} {a : Word}
    (hin : a.toNat + p.bytes ≤ Config.addressSpace) {v v' : DRegs} (h : loadPairs s p p.regs 0 a v = .ok v') :
    (∀ r < p.regs, ∀ e < p.elements,
        elemGet (v'.get (p.d + r)) e (8 * p.ebytes) = s.elementAt (a.toNat + 16 * r + 2 * p.ebytes * e) p.ebytes
        ∧ elemGet (v'.get (p.d2 + r)) e (8 * p.ebytes)
          = s.elementAt (a.toNat + 16 * r + 2 * p.ebytes * e + p.ebytes) p.ebytes)
    ∧ (∀ q, p.lists q = false → v'.get q = v.get q) := by
  obtain ⟨hregs, -, -, hd, hd2, hlist, -⟩ := decodeOperands_ok hp
  obtain ⟨hwidth, hfill, -⟩ := lanes_of_operands hp
  have hspacing : pairCount f.shape ≤ pairSpacing f.shape := by cases f.shape <;> decide
  obtain ⟨hlanes, hrest⟩ := loadPairs_ok hwidth hfill p.regs 0 a v (by omega) (by omega)
    (fun x hx y hy => by omega) hin h
  refine ⟨hlanes, fun q hq => hrest q fun x hx => ?_⟩
  simp only [LoadOperands.lists, Bool.or_eq_false_iff, Bool.and_eq_false_iff, decide_eq_false_iff_not] at hq
  omega

/-! ### What the loads depend on -/

theorem DRegs.ext {u v : DRegs} (h : ∀ q < 32, u.get q = v.get q) : u = v := by
  refine Vector.ext fun q hq => ?_
  simpa [DRegs.get, hq] using h q hq

/-- Two loads of the same elements into registers that agree off the list end with the same registers: every lane of a
listed register is written. -/
theorem loadPairs_ok_unique {f : Fields} {p : LoadOperands} (hp : decodeOperands f = .ok p) {s t : State} {a : Word}
    (hin : a.toNat + p.bytes ≤ Config.addressSpace) (hsame : SameFootprint s t a.toNat p.bytes) {v w v' w' : DRegs}
    (hoff : ∀ q < 32, p.lists q = false → w.get q = v.get q)
    (hv : loadPairs s p p.regs 0 a v = .ok v') (hw : loadPairs t p p.regs 0 a w = .ok w') : w' = v' := by
  obtain ⟨hvlanes, hvrest⟩ := loadPairs_ok_of_operands hp hin hv
  obtain ⟨hwlanes, hwrest⟩ := loadPairs_ok_of_operands hp hin hw
  obtain ⟨hwidth, hfill, htotal⟩ := lanes_of_operands hp
  have hfull : p.elements * (8 * p.ebytes) = 64 := by
    calc p.elements * (8 * p.ebytes) = 8 * (p.ebytes * p.elements) := by ring
      _ = 64 := by rw [hfill]
  have hlane : ∀ r < p.regs, ∀ e < p.elements, 16 * r + 2 * p.ebytes * e + 2 * p.ebytes ≤ p.bytes := by
    intro r hr e he
    have h1 : p.ebytes * (e + 1) ≤ 8 := hfill ▸ Nat.mul_le_mul_left _ he
    have h2 : 2 * p.ebytes * e + 2 * p.ebytes = 2 * (p.ebytes * (e + 1)) := by ring
    simp only [LoadOperands.bytes]
    omega
  refine DRegs.ext fun q hq => ?_
  cases hl : p.lists q with
  | false => rw [hwrest q hl, hvrest q hl, hoff q hq hl]
  | true =>
    refine eq_of_elemGet_eq hwidth hfull _ _ fun e he => ?_
    simp only [LoadOperands.lists, Bool.or_eq_true, Bool.and_eq_true, decide_eq_true_eq] at hl
    obtain ⟨hlow, hhigh⟩ | ⟨hlow, hhigh⟩ := hl
    · obtain ⟨r, rfl⟩ := Nat.exists_eq_add_of_le hlow
      have hr : r < p.regs := by omega
      have := hlane r hr e he
      rw [(hvlanes r hr e he).1, (hwlanes r hr e he).1, hsame.elementAt (by omega) (by omega)]
    · obtain ⟨r, rfl⟩ := Nat.exists_eq_add_of_le hlow
      have hr : r < p.regs := by omega
      have := hlane r hr e he
      rw [(hvlanes r hr e he).2, (hwlanes r hr e he).2, hsame.elementAt (by omega) (by omega)]

theorem loadPairs_congr {f : Fields} {p : LoadOperands} (hp : decodeOperands f = .ok p) {s t : State} {a : Word}
    (hin : a.toNat + p.bytes ≤ Config.addressSpace) (hsame : SameFootprint s t a.toNat p.bytes) {v w : DRegs}
    (hoff : ∀ q < 32, p.lists q = false → w.get q = v.get q) :
    loadPairs t p p.regs 0 a w = loadPairs s p p.regs 0 a v := by
  have hreads : readElements t p.ebytes (2 * p.elements * p.regs) a
      = readElements s p.ebytes (2 * p.elements * p.regs) a := by
    refine readElements_congr fun k hk => hsame.memRead ?_ ?_
    · rw [toNat_element hp hin hk]; omega
    · rw [toNat_element hp hin hk]
      have := element_inside hp hk
      omega
  rw [← loadPairs_map t p _ 0 a w, ← loadPairs_map s p _ 0 a v] at hreads
  cases hv : loadPairs s p p.regs 0 a v with
  | error x => cases hw : loadPairs t p p.regs 0 a w <;> simp_all [Except.map]
  | ok v' =>
    cases hw : loadPairs t p p.regs 0 a w with
    | error y => simp [hv, hw, Except.map] at hreads
    | ok w' => rw [loadPairs_ok_unique hp hin hsame hoff hv hw]

/-- Where every element of the footprint can be read, the loads complete. -/
theorem exists_loadPairs_ok {f : Fields} {p : LoadOperands} (hp : decodeOperands f = .ok p) {s : State} {a : Word}
    (hin : a.toNat + p.bytes ≤ Config.addressSpace) (halign : s.strictAlign = true → a.toNat % p.ebytes = 0)
    (hreadable : s.readable a.toNat p.bytes) (v : DRegs) : ∃ v', loadPairs s p p.regs 0 a v = .ok v' := by
  have hreads : readElements s p.ebytes (2 * p.elements * p.regs) a = .ok () := by
    refine readElements_ok fun k hk => ⟨_, State.memRead_of_readable ?_ ?_⟩
    · rw [toNat_element hp hin hk, Nat.add_mul_mod_self_left]
      exact halign
    · rw [toNat_element hp hin hk]
      have := element_inside hp hk
      exact fun c h1 h2 => hreadable c (by omega) (by omega)
  rw [← loadPairs_map s p _ 0 a v] at hreads
  cases hv : loadPairs s p p.regs 0 a v with
  | error x => simp [hv, Except.map] at hreads
  | ok v' => exact ⟨v', rfl⟩

/-- The first element that cannot be read stops the loads. -/
theorem loadPairs_error {s : State} {p : LoadOperands} {a : Word} {r : ReadFault} {k : Nat}
    (hk : k < 2 * p.elements * p.regs)
    (hbefore : ∀ j < k, ∃ x, s.memRead (a + BitVec.ofNat 32 (p.ebytes * j)) p.ebytes = .ok x)
    (hr : s.memRead (a + BitVec.ofNat 32 (p.ebytes * k)) p.ebytes = .error r) (v : DRegs) :
    loadPairs s p p.regs 0 a v = .error r := by
  have hreads := readElements_error hk hbefore hr
  rw [← loadPairs_map s p _ 0 a v] at hreads
  cases hv : loadPairs s p p.regs 0 a v <;> simp_all [Except.map]

end Sys2Proof.Machine
end

section
/-! PROOFS. The access of a load, in the order of its checks: alignment, footprint, device, elements
(40_vld2_multiple.md section 3; 20_memory.md sections 1 to 4 and 6). -/

namespace Sys2Proof.Machine

/-! ### The checks before the first read -/

/-- The checks before the first element read all pass (rules R41, R44, R48). -/
structure AccessStarts (p : LoadOperands) (s : State) : Prop where
  aligned : (s.readR p.n).toNat % p.alignment = 0
  inside : (s.readR p.n).toNat + p.bytes ≤ Config.addressSpace
  noDevice : s.touchesDevice (s.readR p.n).toNat p.bytes = false

theorem loadAccess_of_misaligned {p : LoadOperands} {s : State} (h : (s.readR p.n).toNat % p.alignment ≠ 0) :
    loadAccess p s = .fault (.alignmentFault (s.readR p.n)) := by
  simp [loadAccess, h, raise]

theorem loadAccess_of_wrap {p : LoadOperands} {s : State} (haligned : (s.readR p.n).toNat % p.alignment = 0)
    (h : (s.readR p.n).toNat + p.bytes > Config.addressSpace) : loadAccess p s = .refused .addressWrap := by
  simp [loadAccess, haligned, h, refuse]

theorem loadAccess_of_device {p : LoadOperands} {s : State} (haligned : (s.readR p.n).toNat % p.alignment = 0)
    (hinside : (s.readR p.n).toNat + p.bytes ≤ Config.addressSpace)
    (h : s.touchesDevice (s.readR p.n).toNat p.bytes = true) :
    loadAccess p s = .refused (.unmodelled .deviceMemory) := by
  simp [loadAccess, haligned, Nat.not_lt.mpr hinside, h, refuse]

theorem loadAccess_of_error {p : LoadOperands} {s : State} {r : ReadFault} (h : AccessStarts p s)
    (hr : loadPairs s p p.regs 0 (s.readR p.n) s.dreg = .error r) : loadAccess p s = .fault (readFault s p r) := by
  simp [loadAccess, h.aligned, Nat.not_lt.mpr h.inside, h.noDevice, hr, raise]

theorem loadAccess_of_ok {p : LoadOperands} {s : State} {v : DRegs} (h : AccessStarts p s)
    (hv : loadPairs s p p.regs 0 (s.readR p.n) s.dreg = .ok v) : loadAccess p s = .next (s.completeLoad p v) := by
  simp [loadAccess, h.aligned, Nat.not_lt.mpr h.inside, h.noDevice, hv]

/-- Every outcome of the access, with the check that gives it. -/
theorem loadAccess_cases (p : LoadOperands) (s : State) :
    ((s.readR p.n).toNat % p.alignment ≠ 0 ∧ loadAccess p s = .fault (.alignmentFault (s.readR p.n)))
    ∨ ((s.readR p.n).toNat % p.alignment = 0 ∧ (s.readR p.n).toNat + p.bytes > Config.addressSpace
        ∧ loadAccess p s = .refused .addressWrap)
    ∨ ((s.readR p.n).toNat % p.alignment = 0 ∧ (s.readR p.n).toNat + p.bytes ≤ Config.addressSpace
        ∧ s.touchesDevice (s.readR p.n).toNat p.bytes = true ∧ loadAccess p s = .refused (.unmodelled .deviceMemory))
    ∨ (AccessStarts p s ∧ ∃ r, loadPairs s p p.regs 0 (s.readR p.n) s.dreg = .error r
        ∧ loadAccess p s = .fault (readFault s p r))
    ∨ (AccessStarts p s ∧ ∃ v, loadPairs s p p.regs 0 (s.readR p.n) s.dreg = .ok v
        ∧ loadAccess p s = .next (s.completeLoad p v)) := by
  by_cases haligned : (s.readR p.n).toNat % p.alignment = 0
  swap
  · exact .inl ⟨haligned, loadAccess_of_misaligned haligned⟩
  by_cases hinside : (s.readR p.n).toNat + p.bytes ≤ Config.addressSpace
  swap
  · exact .inr (.inl ⟨haligned, Nat.not_le.mp hinside, loadAccess_of_wrap haligned (Nat.not_le.mp hinside)⟩)
  cases hdevice : s.touchesDevice (s.readR p.n).toNat p.bytes
  swap
  · exact .inr (.inr (.inl ⟨haligned, hinside, rfl, loadAccess_of_device haligned hinside hdevice⟩))
  have hstarts : AccessStarts p s := ⟨haligned, hinside, hdevice⟩
  cases hpairs : loadPairs s p p.regs 0 (s.readR p.n) s.dreg with
  | error r => exact .inr (.inr (.inr (.inl ⟨hstarts, r, rfl, loadAccess_of_error hstarts hpairs⟩)))
  | ok v => exact .inr (.inr (.inr (.inr ⟨hstarts, v, rfl, loadAccess_of_ok hstarts hpairs⟩)))

/-- Settles O52: the enable check and the access are all that a load can stop at. -/
theorem loadsStopOnlyForListedReasons : Obligations.LoadsStopOnlyForListedReasons := by
  intro i s hwf hk hi
  obtain ⟨p, hp⟩ := exists_decodeOperands_of_load hwf hk
  cases hc : s.conditionPassed with
  | false =>
    rw [exec_of_failed hi hc, execFailed, earlyStop_of_operands hp]
    obtain ⟨he, hstop⟩ | ⟨he, hstop⟩ | ⟨he, hstop⟩ := s.simdStop_cases <;> rw [hstop, he] <;>
      cases s.condFailStops <;> simp [Stop.outcome, raise]
  | true =>
    obtain ⟨hundef, hhyp⟩ := enableCheckStopsEveryLoad i s hwf hk hi hc
    cases he : s.simdAccess with
    | undefined => exact .inr (.inl ⟨hundef he, rfl⟩)
    | hypTrap => exact .inr (.inr (.inl ⟨hhyp he, rfl⟩))
    | enabled =>
      rw [exec_of_load hi hc he hp]
      obtain ⟨-, h⟩ | ⟨-, -, h⟩ | ⟨-, -, -, h⟩ | ⟨-, r, -, h⟩ | ⟨-, v, -, h⟩ := loadAccess_cases p s
      · simp [h]
      · simp [h]
      · simp [h]
      · cases r <;> simp [h, readFault]
      · simp [h]

/-! ### The checks, in the words of the fields -/

/-- The operands of a load, with the values that its fields and its base register give them. -/
theorem exists_operands_of_load {i : Instr} {n : Fin Config.numR} (hwf : i.wf = true) (hk : kindOf i = .load)
    (hn : i.fields.n = regField n) :
    ∃ p, decodeOperands i.fields = .ok p ∧ p.n = n ∧ p.alignment = alignmentBytes i.fields.align
      ∧ p.bytes = 16 * pairCount i.fields.shape ∧ elementBytes i.fields.size = some p.ebytes := by
  obtain ⟨p, hp⟩ := exists_decodeOperands_of_load hwf hk
  obtain ⟨hregs, hbytes, halignment, -, -, -, hpn, -⟩ := decodeOperands_ok hp
  exact ⟨p, hp, Fin.ext (by rw [hpn, hn]; rfl), halignment, by rw [LoadOperands.bytes, hregs], hbytes⟩

/-- Settles O26: the alignment check is the first of the access. -/
theorem misalignedBaseFaultsBeforeAnyAccess : Obligations.MisalignedBaseFaultsBeforeAnyAccess := by
  intro i s n hwf hk hn hi hc he hmis
  obtain ⟨p, hp, rfl, halignment, -⟩ := exists_operands_of_load hwf hk hn
  rw [exec_of_load hi hc he hp, loadAccess_of_misaligned (halignment ▸ hmis)]

/-- Settles O28: the footprint check follows the alignment check. -/
theorem footprintPastTheTopIsRefused : Obligations.FootprintPastTheTopIsRefused := by
  intro i s n hwf hk hn hi hc he haligned hwrap
  obtain ⟨p, hp, rfl, halignment, hbytes, -⟩ := exists_operands_of_load hwf hk hn
  rw [exec_of_load hi hc he hp, loadAccess_of_wrap (halignment ▸ haligned) (hbytes ▸ hwrap)]

/-- A footprint address inside a device region. -/
theorem State.touchesDevice_of_mem {s : State} {r : Region} {a base len : Nat} (hr : r ∈ s.devices) (hlow : r.base ≤ a)
    (hhigh : a < r.base + r.size) (hbase : base ≤ a) (htop : a < base + len) : s.touchesDevice base len = true := by
  rw [State.touchesDevice, List.any_eq_true]
  refine ⟨r, hr, ?_⟩
  simp only [Region.touches, Bool.and_eq_true, decide_eq_true_eq]
  omega

/-- Settles O29: the device check follows the alignment and the footprint check. -/
theorem deviceFootprintIsRefused : Obligations.DeviceFootprintIsRefused := by
  intro i s n hwf hk hn hi hc he haligned hinside r hr a hlow hhigh hbase htop
  obtain ⟨p, hp, rfl, halignment, hbytes, -⟩ := exists_operands_of_load hwf hk hn
  rw [exec_of_load hi hc he hp, loadAccess_of_device (halignment ▸ haligned) (hbytes ▸ hinside)]
  exact hbytes ▸ State.touchesDevice_of_mem hr hlow hhigh hbase htop

/-- Settles O27: the first element read is that of the base address. -/
theorem strictAlignmentFaultsOnTheElementSize : Obligations.StrictAlignmentFaultsOnTheElementSize := by
  intro i s n hwf hk hn hi hc he ebytes hebytes haligned hinside hdevice hstrict hmis
  obtain ⟨p, hp, rfl, halignment, hbytes, hpe⟩ := exists_operands_of_load hwf hk hn
  obtain rfl : p.ebytes = ebytes := Option.some.inj (hpe.symm.trans hebytes)
  have hstarts : AccessStarts p s := ⟨halignment ▸ haligned, hbytes ▸ hinside, hbytes ▸ hdevice⟩
  have hfirst : s.memRead (s.readR p.n + BitVec.ofNat 32 (p.ebytes * 0)) p.ebytes
      = .error (.misaligned (s.readR p.n)) := by
    rw [Nat.mul_zero, BitVec.add_zero]
    exact State.memRead_of_misaligned hstrict hmis
  have herror := loadPairs_error (reads_pos_of_operands hp) (fun j hj => absurd hj (Nat.not_lt_zero j)) hfirst s.dreg
  rw [exec_of_load hi hc he hp, loadAccess_of_error hstarts herror]
  rfl

/-! ### The abort -/

theorem sameContext_abortedLoad (s : State) (p : LoadOperands) : SameContext s (s.abortedLoad p) := by
  constructor <;> simp

/-- The faulted state changes the listed D registers only. -/
theorem aborted_abortedLoad {f : Fields} {p : LoadOperands} (hp : decodeOperands f = .ok p) (s : State) :
    Aborted s (s.abortedLoad p) f.shape f.d.val where
  otherD k hk hlist := by
    rw [State.readD_abortedLoad s p hk, if_neg (mt (LoadOperands.lists_iff hp k).mp hlist)]
  gpr := rfl
  pc := rfl
  itstate := rfl
  context := sameContext_abortedLoad s p

/-- Settles O55: the state that the fault carries is the faulted state of the load's operands. -/
theorem dataAbortLeavesAllButTheListedRegisters : Obligations.DataAbortLeavesAllButTheListedRegisters := by
  intro i s t a h
  rw [exec_eq_execFields] at h
  obtain ⟨-, -, p, hp, -, hload⟩ := execFields_dataAbort h
  obtain ⟨-, -, -, -, rfl⟩ := loadAccess_dataAbort hload
  exact aborted_abortedLoad hp s

/-- A footprint that memory does not hold has a first element that it does not hold. -/
theorem exists_first_unreadable {s : State} {a ebytes n : Nat} (hpos : 0 < ebytes) (h : ¬ s.readable a (ebytes * n)) :
    ∃ k < n, ¬ s.readable (a + ebytes * k) ebytes ∧ ∀ j < k, s.readable (a + ebytes * j) ebytes := by
  classical
  have hex : ∃ k, ¬ s.readable (a + ebytes * k) ebytes ∧ k < n := by
    by_contra hnone
    simp only [not_exists, not_and, not_lt] at hnone
    refine h fun c hlow hhigh => ?_
    have hdiv := Nat.div_add_mod (c - a) ebytes
    have hmod := Nat.mod_lt (c - a) hpos
    by_contra hc
    have hn := hnone ((c - a) / ebytes) fun hread => hc (hread c (by omega) (by omega))
    have := Nat.mul_le_mul_left ebytes hn
    omega
  obtain ⟨hread, hk⟩ := Nat.find_spec hex
  refine ⟨Nat.find hex, hk, hread, fun j hj => ?_⟩
  by_contra hj'
  exact Nat.find_min hex hj ⟨hj', by omega⟩

/-- Settles O30: the loads stop at the first element that memory does not hold. -/
theorem firstUnreadableElementAborts : Obligations.FirstUnreadableElementAborts := by
  intro i s n hwf hk hn hi hc he ebytes hebytes haligned hinside hdevice hstrict hread
  obtain ⟨p, hp, rfl, halignment, hbytes, hpe⟩ := exists_operands_of_load hwf hk hn
  obtain rfl : p.ebytes = ebytes := Option.some.inj (hpe.symm.trans hebytes)
  have hstarts : AccessStarts p s := ⟨halignment ▸ haligned, hbytes ▸ hinside, hbytes ▸ hdevice⟩
  obtain ⟨-, -, htotal⟩ := lanes_of_operands hp
  rw [← hbytes, ← htotal] at hread
  obtain ⟨k, hklt, hunread, hbefore⟩ := exists_first_unreadable (ebytes_pos_of_operands hp) hread
  have haddress : ∀ j ≤ k, (s.readR p.n + BitVec.ofNat 32 (p.ebytes * j)).toNat = (s.readR p.n).toNat + p.ebytes * j :=
    fun j hj => toNat_element hp hstarts.inside (by omega)
  have helement : ∀ j ≤ k, s.strictAlign = true →
      (s.readR p.n + BitVec.ofNat 32 (p.ebytes * j)).toNat % p.ebytes = 0 := fun j hj hs => by
    rw [haddress j hj, Nat.add_mul_mod_self_left, hstrict hs]
  have hfault : s.memRead (s.readR p.n + BitVec.ofNat 32 (p.ebytes * k)) p.ebytes
      = .error (.notHeld (s.readR p.n + BitVec.ofNat 32 (p.ebytes * k))) :=
    State.memRead_of_not_readable (helement k le_rfl) (by rw [haddress k le_rfl]; exact hunread)
  have herror := loadPairs_error hklt (fun j hj => ⟨_, State.memRead_of_readable (helement j hj.le)
    (by rw [haddress j hj.le]; exact hbefore j hj)⟩) hfault s.dreg
  refine ⟨k, s.abortedLoad p, ?_, ?_, aborted_abortedLoad hp s, hunread, hbefore⟩
  · have := element_inside hp hklt
    have := ebytes_pos_of_operands hp
    omega
  · rw [exec_of_load hi hc he hp, loadAccess_of_error hstarts herror]
    rfl

end Sys2Proof.Machine
end

section
/-! PROOFS. The frame of every instruction, and which parts of the state its outcome depends on (40_vld2_multiple.md
sections 3 and 5; 60_exceptions.md section 4). -/

namespace Sys2Proof.Machine

/-! ### The frame (rule R102) -/

theorem sameContext_finish (s : State) : SameContext s s.finish := by constructor <;> simp

theorem sameContext_takeChoice_finish (s : State) : SameContext s s.takeChoice.finish := by constructor <;> simp

theorem sameContext_completeLoad (s : State) (p : LoadOperands) (v : DRegs) : SameContext s (s.completeLoad p v) := by
  constructor <;> simp

/-- The enable check's answer is part of the context. -/
theorem SameContext.simdAccess {s t : State} (h : SameContext s t) : t.simdAccess = s.simdAccess :=
  State.simdAccess_congr s t h.simdContext h.simdRule

/-- Settles O32: the two ends of a failed condition, and a load that completes. -/
theorem everyInstructionKeepsTheContext : Obligations.EveryInstructionKeepsTheContext := by
  intro i s t h
  obtain ⟨hpc, hit, -⟩ := exec_next_context h
  have hcontext : SameContext s t ∧ (t.freeIndex = s.freeIndex ∨ t.freeIndex = s.freeIndex + 1) := by
    rw [exec_eq_execFields] at h
    obtain ⟨-, ⟨-, rfl | rfl⟩ | ⟨-, -, p, -, hp⟩⟩ := execFields_next h
    · exact ⟨sameContext_finish s, by simp⟩
    · exact ⟨sameContext_takeChoice_finish s, by simp⟩
    · obtain ⟨-, -, -, v, -, rfl⟩ := loadAccess_next hp
      exact ⟨sameContext_completeLoad s p v, by simp⟩
  exact ⟨hcontext.1, hcontext.1.simdAccess, hpc, hit, hcontext.2⟩

/-- A completed load changes the listed D registers and the base register only. -/
theorem registers_of_loadAccess_next {f : Fields} {p : LoadOperands} {s t : State} (hp : decodeOperands f = .ok p)
    (h : loadAccess p s = .next t) :
    (∀ k, k ∉ listed f.shape f.d.val → t.readD k = s.readD k)
    ∧ (∀ k : Fin Config.numR, k.val ≠ f.n.val → t.readR k = s.readR k) := by
  obtain ⟨-, hinside, -, v, hv, rfl⟩ := loadAccess_next h
  obtain ⟨-, hrest⟩ := loadPairs_ok_of_operands hp hinside hv
  obtain ⟨-, -, -, -, -, -, hn, -⟩ := decodeOperands_ok hp
  refine ⟨fun k hk => ?_, fun k hk => ?_⟩
  · rw [State.readD_completeLoad]
    exact hrest k (Bool.eq_false_iff.mpr (mt (LoadOperands.lists_iff hp k).mp hk))
  · have hne : k ≠ p.n := fun h => hk (h ▸ hn)
    rw [State.readR_completeLoad, State.readR_doWriteBack, if_neg hne]

/-- Settles O33: only a completed load writes registers. -/
theorem onlyListedAndBaseRegistersChange : Obligations.OnlyListedAndBaseRegistersChange := by
  intro i s t hwf h
  rw [exec_eq_execFields] at h
  obtain ⟨-, ⟨-, rfl | rfl⟩ | ⟨hc, -, p, hp, hload⟩⟩ := execFields_next h
  · simp
  · simp [State.readD, State.readR]
  · obtain ⟨hdreg, hgpr⟩ := registers_of_loadAccess_next hp hload
    refine ⟨fun k _ => hdreg k, hgpr, fun hnot => ?_⟩
    simp [kindOf_eq_load_of_decodeOperands hwf hp, hc] at hnot

/-! ### A completed load as one update of the state -/

/-- The write-back reads and writes general-purpose registers only. -/
theorem State.doWriteBack_gpr_congr {s t : State} {p : LoadOperands} (h : t.gpr = s.gpr) :
    (t.doWriteBack p).gpr = (s.doWriteBack p).gpr := by
  cases hwb : p.writeBack <;> simp [State.doWriteBack, writeBackValue, State.readR, hwb, h]

theorem State.doWriteBack_eq (s : State) (p : LoadOperands) :
    s.doWriteBack p = { s with gpr := (s.doWriteBack p).gpr } := by
  unfold State.doWriteBack
  cases writeBackValue s p <;> rfl

theorem State.completeLoad_eq (s : State) (p : LoadOperands) (v : DRegs) :
    s.completeLoad p v
      = { s with pc := s.pc + 4#32, gpr := (s.doWriteBack p).gpr, dreg := v, itstate := s.nextIT } := by
  rw [State.completeLoad, State.finish_eq, State.doWriteBack_eq,
    State.doWriteBack_gpr_congr (s := s) (t := s.writeDRegs v) rfl]
  rfl

/-! ### Two runs side by side -/

/-- A stop before the access carries no state. -/
theorem mapOutcome_earlyStop {f : Fields} {s : State} {stop : Stop} (h : earlyStop f s = some stop)
    (g k : State → State) : mapOutcome g k stop.outcome = stop.outcome := by
  cases stop with
  | refusal r => rfl
  | fault r =>
    cases r with
    | dataAbort a t => exact absurd rfl (earlyStop_ne_dataAbort h a t)
    | undefined => rfl
    | hypTrap => rfl
    | alignmentFault a => rfl

/-- Two accesses from states that agree on the base register, the device regions, the D registers and the footprint
have corresponding outcomes. -/
theorem loadAccess_mapOutcome {f : Fields} {p : LoadOperands} (hp : decodeOperands f = .ok p) {s t : State}
    {g k : State → State} (hbase : t.readR p.n = s.readR p.n) (hdevices : t.devices = s.devices) (hdreg : t.dreg = s.dreg)
    (hsame : SameFootprint s t (s.readR p.n).toNat p.bytes) (hnext : ∀ v, t.completeLoad p v = g (s.completeLoad p v))
    (habort : t.abortedLoad p = k (s.abortedLoad p)) : loadAccess p t = mapOutcome g k (loadAccess p s) := by
  have hdevice : t.touchesDevice (s.readR p.n).toNat p.bytes = s.touchesDevice (s.readR p.n).toNat p.bytes := by
    rw [State.touchesDevice, State.touchesDevice, hdevices]
  have hstarts : AccessStarts p s → AccessStarts p t := fun h =>
    ⟨hbase ▸ h.aligned, hbase ▸ h.inside, by rw [hbase, hdevice]; exact h.noDevice⟩
  have hpairs : AccessStarts p s →
      loadPairs t p p.regs 0 (t.readR p.n) t.dreg = loadPairs s p p.regs 0 (s.readR p.n) s.dreg := fun h => by
    rw [hbase, hdreg, loadPairs_congr hp h.inside hsame fun _ _ _ => rfl]
  obtain ⟨hmis, h⟩ | ⟨haligned, hwrap, h⟩ | ⟨haligned, hinside, hdev, h⟩ | ⟨hs, r, hr, h⟩ | ⟨hs, v, hv, h⟩ :=
    loadAccess_cases p s <;> rw [h]
  · rw [loadAccess_of_misaligned (hbase ▸ hmis), hbase]; rfl
  · rw [loadAccess_of_wrap (hbase ▸ haligned) (hbase ▸ hwrap)]; rfl
  · rw [loadAccess_of_device (hbase ▸ haligned) (hbase ▸ hinside) (by rw [hbase, hdevice, hdev])]; rfl
  · rw [loadAccess_of_error (hstarts hs) ((hpairs hs).trans hr)]
    cases r with
    | misaligned a => rfl
    | notHeld a => rw [readFault, habort]; rfl
  · rw [loadAccess_of_ok (hstarts hs) ((hpairs hs).trans hv), hnext]; rfl

/-- With the same decode and the same early stop, corresponding accesses give corresponding outcomes. -/
theorem execPassed_mapOutcome {f f' : Fields} {s t : State} {g k : State → State}
    (hdecode : decodeOperands f' = decodeOperands f) (hstop : t.simdStop = s.simdStop) (hfree : t.freeIndex = s.freeIndex)
    (hload : ∀ p, decodeOperands f = .ok p → loadAccess p t = mapOutcome g k (loadAccess p s)) :
    execPassed f' t = mapOutcome g k (execPassed f s) := by
  rw [execPassed, execPassed, earlyStop_congr hdecode hstop hfree, hdecode]
  cases hearly : earlyStop f s with
  | some stop => exact (mapOutcome_earlyStop hearly g k).symm
  | none =>
    obtain ⟨⟨p, hp⟩, -⟩ := earlyStop_eq_none_iff.mp hearly
    simp only [hp]
    exact hload p hp

/-! ### Data memory replaced -/

theorem State.finish_withMem (s : State) (m : Memory) :
    State.finish { s with mem := m } = { s.finish with mem := m } := by
  rw [State.finish_eq, State.finish_eq]; rfl

theorem State.completeLoad_withMem (s : State) (m : Memory) (p : LoadOperands) (v : DRegs) :
    State.completeLoad { s with mem := m } p v = { s.completeLoad p v with mem := m } := by
  rw [State.completeLoad_eq, State.completeLoad_eq,
    State.doWriteBack_gpr_congr (s := s) (t := { s with mem := m }) rfl]
  rfl

/-- Settles O31: the early stop and the failed condition read no memory, and the access reads its footprint only. -/
theorem loadDependsOnlyOnItsFootprint : Obligations.LoadDependsOnlyOnItsFootprint := by
  intro i s m n hn hagree
  have hload : ∀ p, decodeOperands i.fields = .ok p → loadAccess p { s with mem := m }
      = mapOutcome (fun t => { t with mem := m }) (fun t => { t with mem := m }) (loadAccess p s) := by
    intro p hp
    obtain ⟨hregs, -, -, -, -, -, hpn, -⟩ := decodeOperands_ok hp
    obtain rfl : p.n = n := Fin.ext (by rw [hpn, hn]; rfl)
    exact loadAccess_mapOutcome hp rfl rfl rfl ⟨rfl, rfl, by rw [LoadOperands.bytes, hregs]; exact hagree⟩
      (s.completeLoad_withMem m p) rfl
  have hearly : earlyStop i.fields { s with mem := m } = earlyStop i.fields s := earlyStop_congr rfl rfl rfl
  have hfailed : execFailed i.fields { s with mem := m }
      = mapOutcome (fun t => { t with mem := m }) (fun t => { t with mem := m }) (execFailed i.fields s) := by
    rw [execFailed, execFailed, hearly]
    cases hstop : earlyStop i.fields s with
    | none => simp only [State.finish_withMem, mapOutcome]
    | some stop =>
      have hchoice : State.condFailStops { s with mem := m } = s.condFailStops := rfl
      have hfinish := State.finish_withMem s.takeChoice m
      simp only [hchoice]
      split_ifs
      · exact (mapOutcome_earlyStop hstop _ _).symm
      · exact congrArg Host.Outcome.next hfinish
  have hcondition : State.conditionPassed { s with mem := m } = s.conditionPassed := rfl
  rw [exec_eq_execFields, exec_eq_execFields, execFields, execFields, hcondition]
  split_ifs
  · rfl
  · exact execPassed_mapOutcome rfl rfl rfl hload
  · exact hfailed

/-! ### The other instruction set (40_vld2_multiple.md section 5) -/

/-- The decode pseudocode of T1 and T2 is that of A1 and A2 (rules R93, R94). -/
theorem decodeOperands_t32_eq_a32 (f : Fields) :
    decodeOperands { f with iset := .t32 } = decodeOperands { f with iset := .a32 } := rfl

theorem State.completeLoad_withT32 {s : State} (h : s.iset = .a32) (p : LoadOperands) (v : DRegs) :
    State.completeLoad { s with iset := .t32 } p v
      = { s.completeLoad p v with iset := .t32, itstate := itAdvance (s.completeLoad p v).itstate } := by
  rw [State.completeLoad_eq, State.completeLoad_eq,
    State.doWriteBack_gpr_congr (s := s) (t := { s with iset := .t32 }) rfl, State.nextIT_of_a32 h]
  rfl

/-- Settles O13: both conditions pass, and from there on the two runs differ only in the advance. -/
theorem t32FormsActAsA32Forms : Obligations.T32FormsActAsA32Forms := by
  intro f s hs hit
  have hpassed : State.conditionPassed { s with iset := .t32 } = true := by simp [State.conditionPassed, hit]
  rw [exec_eq_execFields, exec_eq_execFields, fields_classify, fields_classify, execFields, execFields]
  simp only [hs, hpassed, State.conditionPassed_of_a32 hs, ne_eq, not_true_eq_false, if_false, if_true]
  refine execPassed_mapOutcome (decodeOperands_t32_eq_a32 f) rfl rfl fun p hp => ?_
  exact loadAccess_mapOutcome hp rfl rfl rfl ⟨rfl, rfl, fun _ _ _ => rfl⟩ (State.completeLoad_withT32 hs p) rfl

/-! ### Repetition, the qualifier, and restarting after an abort -/

/-- A load that has passed its condition and completed. -/
theorem exec_next_loadAccess {i : Instr} {s t : State} (hc : s.conditionPassed = true) (h : exec i s = .next t) :
    s.iset = i.iset ∧ s.simdAccess = .enabled ∧ ∃ p, decodeOperands i.fields = .ok p ∧ loadAccess p s = .next t := by
  rw [exec_eq_execFields] at h
  obtain ⟨hi, ⟨hfail, -⟩ | ⟨-, he, hload⟩⟩ := execFields_next h
  · simp [hc] at hfail
  · exact ⟨hi, he, hload⟩

/-- Settles O36: the second load reads the same footprint, and writes every lane of the listed registers again. -/
theorem repeatedLoadWithoutWriteBackLoadsTheSame : Obligations.RepeatedLoadWithoutWriteBackLoadsTheSame := by
  intro i s t u hm hc hs ht
  obtain ⟨-, -, p, hp, hload⟩ := exec_next_loadAccess hc hs
  obtain ⟨-, -, -, -, -, -, -, hwb, -⟩ := decodeOperands_ok hp
  obtain ⟨-, hinside, -, v, hv, rfl⟩ := loadAccess_next hload
  rw [exec_eq_execFields] at ht
  obtain ⟨-, ⟨-, rfl | rfl⟩ | ⟨-, -, q, hq, hagain⟩⟩ := execFields_next ht
  · simp
  · simp
  · obtain rfl : p = q := Except.ok.inj (hp.symm.trans hq)
    obtain ⟨-, -, -, w, hw, rfl⟩ := loadAccess_next hagain
    have hbase : (s.completeLoad p v).readR p.n = s.readR p.n := by
      rw [State.readR_base_completeLoad, writeBackValue, hwb, writeBackOf_eq_none hm]
      rfl
    obtain ⟨-, hoff⟩ := loadPairs_ok_of_operands hp hinside hv
    rw [hbase, State.completeLoad_dreg] at hw
    rw [State.completeLoad_dreg, State.completeLoad_dreg]
    exact loadPairs_ok_unique hp hinside ⟨by simp, by simp, fun _ _ _ => by simp⟩ (fun q _ hq => hoff q hq) hv hw

/-- With the qualifier omitted the decode computes the same operands but for the alignment (rule R70). -/
theorem decodeOperands_omitted {f : Fields} {p : LoadOperands} (hp : decodeOperands f = .ok p) :
    decodeOperands { f with align := .omitted } = .ok { p with alignment := 1 } := by
  unfold decodeOperands at hp ⊢
  split at hp
  · cases hp
  split at hp
  · cases hp
  next ebytes hbytes =>
    split_ifs at hp with hn hlist
    cases hp
    simp [hbytes, hn, hlist, alignmentBytes]

/-- The element loads do not read the alignment. -/
theorem loadPairs_withAlignment (s : State) (p : LoadOperands) (alignment : Nat) : ∀ (k r : Nat) (a : Word) (v : DRegs),
    loadPairs s { p with alignment := alignment } k r a v = loadPairs s p k r a v
  | 0, _, _, _ => rfl
  | k + 1, r, a, v => by simp only [loadPairs, LoadOperands.elements, loadPairs_withAlignment s p alignment k]

/-- Settles O37: the alignment is used by its check alone, and every address is a multiple of 1. -/
theorem alignQualifierHasNoOtherEffect : Obligations.AlignQualifierHasNoOtherEffect := by
  intro f s t hc h
  obtain ⟨hi, he, p, hp, hload⟩ := exec_next_loadAccess hc h
  rw [fields_classify] at hp
  rw [iset_classify] at hi
  obtain ⟨-, hinside, hdevice, v, hv, rfl⟩ := loadAccess_next hload
  have hp' : decodeOperands (classify { f with align := .omitted }).fields = .ok { p with alignment := 1 } := by
    rw [fields_classify]
    exact decodeOperands_omitted hp
  rw [exec_of_load (by rw [iset_classify]; exact hi) hc he hp']
  exact loadAccess_of_ok (p := { p with alignment := 1 }) ⟨Nat.mod_one _, hinside, hdevice⟩
    ((loadPairs_withAlignment s p 1 _ _ _ _).trans hv)

/-- A load that completes from the faulted state completes as from the state before, but for the counter of free
choices. -/
theorem State.completeLoad_abortedLoad (s : State) (p : LoadOperands) (v : DRegs) :
    (s.abortedLoad p).completeLoad p v = (s.completeLoad p v).takeChoice := by
  rw [State.completeLoad_eq, State.completeLoad_eq, State.doWriteBack_gpr_congr (s := s) (t := s.abortedLoad p) rfl]; rfl

/-- A load that completes from a state completes from its faulted state too: the listed registers are written again in
every lane, so what they hold does not matter. -/
theorem exec_abortedLoad {i : Instr} {s u : State} {p : LoadOperands} (hc : s.conditionPassed = true)
    (hp : decodeOperands i.fields = .ok p) (h : exec i s = .next u) : exec i (s.abortedLoad p) = .next u.takeChoice := by
  obtain ⟨hi, he, q, hq, hload⟩ := exec_next_loadAccess hc h
  obtain rfl : p = q := Except.ok.inj (hp.symm.trans hq)
  obtain ⟨haligned, hinside, hdevice, v, hv, rfl⟩ := loadAccess_next hload
  have hoff : ∀ k < 32, p.lists k = false → (s.abortedLoad p).readD k = s.readD k := fun k hk hlist => by
    rw [s.readD_abortedLoad p hk, if_neg (Bool.eq_false_iff.mp hlist)]
  have hagain : loadPairs (s.abortedLoad p) p p.regs 0 (s.readR p.n) (abortedRegs s p) = .ok v :=
    (loadPairs_congr (s := s) (t := s.abortedLoad p) hp hinside ⟨rfl, rfl, fun _ _ _ => rfl⟩ hoff).trans hv
  rw [exec_of_load (s := s.abortedLoad p) hi hc he hp,
    loadAccess_of_ok (s := s.abortedLoad p) ⟨haligned, hinside, hdevice⟩ hagain, State.completeLoad_abortedLoad]

/-- Settles O56: replacing data memory commutes with taking the faulted state. -/
theorem abortedLoadIsRestartable : Obligations.AbortedLoadIsRestartable := by
  intro i s t u a m habort hnext
  rw [exec_eq_execFields] at habort
  obtain ⟨-, hc, p, hp, -, hfault⟩ := execFields_dataAbort habort
  obtain ⟨-, -, -, -, rfl⟩ := loadAccess_dataAbort hfault
  exact exec_abortedLoad (s := { s with mem := m }) hc hp hnext

end Sys2Proof.Machine
end

section
/-! PROOFS. The eighteen loads complete in a ready state (40_vld2_multiple.md sections 3 and 4): one argument over the
fields, for every list, either instruction set and the three addressing forms. -/

namespace Sys2Proof.Machine

/-! ### A load in a ready state -/

/-- The fields are those of a load from the base register `n`. -/
structure LoadFields (f : Fields) (n : Fin Config.numR) : Prop where
  size : f.size ≠ .reserved
  align : f.shape.twoRegs = true → f.align ≠ .a256
  base : f.n = regField n
  list : f.d.val + pairSpacing f.shape + pairCount f.shape ≤ 32

theorem LoadFields.exists_operands {f : Fields} {n : Fin Config.numR} (h : LoadFields f n) :
    ∃ p, decodeOperands f = .ok p ∧ p.n = n := by
  have hbase : f.n.val = n.val := by rw [h.base]; rfl
  obtain ⟨p, hp⟩ := exists_decodeOperands_ok (f := f) (not_or.mpr ⟨h.size, fun ⟨htwo, ha⟩ => h.align htwo ha⟩)
    (not_or.mpr ⟨by have := n.isLt; simp only [Config.numR] at this; omega, Nat.not_lt.mpr h.list⟩)
  obtain ⟨-, -, -, -, -, -, hn, -⟩ := decodeOperands_ok hp
  exact ⟨p, hp, Fin.ext (hn.trans hbase)⟩

/-- What a completed load has done, where its registers hold what the loads left (rules R100, R101, R102). -/
theorem loaded_completeLoad {f : Fields} {p : LoadOperands} (hp : decodeOperands f = .ok p) {s : State} {v : DRegs}
    (hin : (s.readR p.n).toNat + p.bytes ≤ Config.addressSpace)
    (hv : loadPairs s p p.regs 0 (s.readR p.n) s.dreg = .ok v) :
    Loaded s (s.completeLoad p v) (pairCount f.shape) (pairSpacing f.shape) p.ebytes f.d.val p.n := by
  obtain ⟨hlanes, hrest⟩ := loadPairs_ok_of_operands hp hin hv
  obtain ⟨hregs, -, -, hd, hd2, -⟩ := decodeOperands_ok hp
  rw [hregs, hd, hd2] at hlanes
  refine ⟨fun r hr e he => ?_, fun r hr e he => ?_, fun k _ hk => ?_, by simp, by simp, sameContext_completeLoad s p v,
    by simp⟩
  · rw [State.readD_completeLoad]
    exact (hlanes r hr e he).1
  · rw [State.readD_completeLoad]
    exact (hlanes r hr e he).2
  · rw [State.readD_completeLoad]
    refine hrest k (Bool.eq_false_iff.mpr fun hlist => ?_)
    simp only [LoadOperands.lists, Bool.or_eq_true, Bool.and_eq_true, decide_eq_true_eq, hregs, hd, hd2] at hlist
    obtain ⟨hlow, hhigh⟩ | ⟨hlow, hhigh⟩ := hlist
    · exact (hk (k - f.d.val) (by omega)).1 (by omega)
    · exact (hk (k - (f.d.val + pairSpacing f.shape)) (by omega)).2 (by omega)

/-- The base register takes the write-back value, and no other register changes (rule R99). -/
theorem baseBecomes_completeLoad (s : State) (p : LoadOperands) (v : DRegs) :
    BaseBecomes s (s.completeLoad p v) p.n ((writeBackValue s p).getD (s.readR p.n)) := by
  refine ⟨State.readR_base_completeLoad s p v, fun k hk => ?_⟩
  rw [State.readR_completeLoad, State.readR_doWriteBack, if_neg hk]

/-- A load in a ready state completes. -/
theorem exec_of_loadReady {i : Instr} {s : State} {n : Fin Config.numR} {ebytes : Nat} (hf : LoadFields i.fields n)
    (hebytes : elementBytes i.fields.size = some ebytes) (hi : s.iset = i.iset) (hc : s.conditionPassed = true)
    (hready : LoadReady s n (alignmentBytes i.fields.align) ebytes (16 * pairCount i.fields.shape)) :
    ∃ p t, decodeOperands i.fields = .ok p ∧ exec i s = .next t
      ∧ Loaded s t (pairCount i.fields.shape) (pairSpacing i.fields.shape) ebytes i.fields.d.val n
      ∧ BaseBecomes s t n ((writeBackValue s p).getD (s.readR n)) := by
  obtain ⟨p, hp, rfl⟩ := hf.exists_operands
  obtain ⟨hregs, hpe, halignment, -⟩ := decodeOperands_ok hp
  obtain rfl : p.ebytes = ebytes := Option.some.inj (hpe.symm.trans hebytes)
  have hbytes : p.bytes = 16 * pairCount i.fields.shape := by rw [LoadOperands.bytes, hregs]
  rw [← hbytes, ← halignment] at hready
  obtain ⟨v, hv⟩ := exists_loadPairs_ok hp hready.inside hready.elementAligned hready.readable s.dreg
  refine ⟨p, s.completeLoad p v, hp, ?_, loaded_completeLoad hp hready.inside hv, baseBecomes_completeLoad s p v⟩
  rw [exec_of_load hi hc hready.enabled hp]
  exact loadAccess_of_ok ⟨hready.aligned, hready.inside, hready.noDevice⟩ hv

/-- The three addressing forms of one list complete in a ready state, with the base register as the form says (rule
R71). -/
theorem formsComplete_of_loadReady {s : State} {shape : Shape} {size : SizeField} {align : AlignField} {d : DReg}
    {n : Fin Config.numR} {ebytes : Nat} {offset post : Instr} {index : GField → Instr}
    (hoffset : offset.fields = ⟨s.iset, shape, size, align, d, regField n, 15⟩)
    (hpost : post.fields = ⟨s.iset, shape, size, align, d, regField n, 13⟩)
    (hindex : ∀ m, (index m).fields = ⟨s.iset, shape, size, align, d, regField n, m⟩)
    (halign : shape.twoRegs = true → align ≠ .a256) (hlist : d.val + pairSpacing shape + pairCount shape ≤ 32)
    (hebytes : elementBytes size = some ebytes) (hc : s.conditionPassed = true)
    (hready : LoadReady s n (alignmentBytes align) ebytes (16 * pairCount shape)) :
    FormsComplete s (pairCount shape) (pairSpacing shape) ebytes d n offset post index := by
  have hsize : size ≠ .reserved := mt (elementBytes_eq_none_iff size).mpr (by simp [hebytes])
  have hform : ∀ (i : Instr) (m : GField), i.fields = ⟨s.iset, shape, size, align, d, regField n, m⟩ →
      ∃ p t, p.writeBack = writeBackOf m ∧ p.regs = pairCount shape ∧ p.n = n ∧ exec i s = .next t
        ∧ Loaded s t (pairCount shape) (pairSpacing shape) ebytes d.val n
        ∧ BaseBecomes s t n ((writeBackValue s p).getD (s.readR n)) := by
    intro i m hfields
    have hf : LoadFields i.fields n := by rw [hfields]; exact ⟨hsize, halign, rfl, hlist⟩
    obtain ⟨p, t, hp, hexec, hloaded, hbase⟩ := exec_of_loadReady hf (by rw [hfields]; exact hebytes)
      (by rw [Instr.iset, hfields]) hc (by rw [hfields]; exact hready)
    rw [hfields] at hp hloaded
    obtain ⟨hregs, -, -, -, -, -, hn, hwb, -⟩ := decodeOperands_ok hp
    exact ⟨p, t, hwb, hregs, Fin.ext hn, hexec, hloaded, hbase⟩
  refine ⟨?_, ?_, fun m hm => ?_⟩
  · obtain ⟨p, t, hwb, -, rfl, hexec, hloaded, hbase⟩ := hform offset 15 hoffset
    rw [writeBackValue, hwb, writeBackOf_eq_none rfl] at hbase
    exact ⟨t, hexec, hloaded, hbase⟩
  · obtain ⟨p, t, hwb, hregs, rfl, hexec, hloaded, hbase⟩ := hform post 13 hpost
    rw [writeBackValue, hwb, writeBackOf_eq_bytes rfl, hregs] at hbase
    exact ⟨t, hexec, hloaded, hbase⟩
  · obtain ⟨p, t, hwb, -, rfl, hexec, hloaded, hbase⟩ := hform (index (regField m)) (regField m) (hindex _)
    rw [writeBackValue, hwb, writeBackOf_regField hm] at hbase
    exact ⟨t, hexec, hloaded, hbase⟩

/-! ### The six groups of loads -/

/-- Settles O14: A1, the list Dd, Dd+1. -/
theorem singleSpacedA32LoadsDeinterleave : Obligations.SingleSpacedA32LoadsDeinterleave := by
  intro s size ebytes align d n hebytes halign hd hs hready
  exact formsComplete_of_loadReady (shape := .single) (hs ▸ rfl) (hs ▸ rfl) (fun _ => hs ▸ rfl) (fun _ => halign)
    (Nat.add_le_add_right hd 2) hebytes (State.conditionPassed_of_a32 hs) hready

/-- Settles O15: A1, the list Dd, Dd+2. -/
theorem doubleSpacedA32LoadsDeinterleave : Obligations.DoubleSpacedA32LoadsDeinterleave := by
  intro s size ebytes align d n hebytes halign hd hs hready
  exact formsComplete_of_loadReady (shape := .double) (hs ▸ rfl) (hs ▸ rfl) (fun _ => hs ▸ rfl) (fun _ => halign)
    (Nat.add_le_add_right hd 3) hebytes (State.conditionPassed_of_a32 hs) hready

/-- Settles O16: A2. -/
theorem fourRegisterA32LoadsDeinterleave : Obligations.FourRegisterA32LoadsDeinterleave := by
  intro s size ebytes align d n hebytes hd hs hready
  exact formsComplete_of_loadReady (shape := .four) (hs ▸ rfl) (hs ▸ rfl) (fun _ => hs ▸ rfl) (fun h => nomatch h)
    (Nat.add_le_add_right hd 4) hebytes (State.conditionPassed_of_a32 hs) hready

/-- Settles O17: T1, the list Dd, Dd+1. -/
theorem singleSpacedT32LoadsDeinterleave : Obligations.SingleSpacedT32LoadsDeinterleave := by
  intro s size ebytes align d n hebytes halign hd hs hc hready
  exact formsComplete_of_loadReady (shape := .single) (hs ▸ rfl) (hs ▸ rfl) (fun _ => hs ▸ rfl) (fun _ => halign)
    (Nat.add_le_add_right hd 2) hebytes hc hready

/-- Settles O18: T1, the list Dd, Dd+2. -/
theorem doubleSpacedT32LoadsDeinterleave : Obligations.DoubleSpacedT32LoadsDeinterleave := by
  intro s size ebytes align d n hebytes halign hd hs hc hready
  exact formsComplete_of_loadReady (shape := .double) (hs ▸ rfl) (hs ▸ rfl) (fun _ => hs ▸ rfl) (fun _ => halign)
    (Nat.add_le_add_right hd 3) hebytes hc hready

/-- Settles O19: T2. -/
theorem fourRegisterT32LoadsDeinterleave : Obligations.FourRegisterT32LoadsDeinterleave := by
  intro s size ebytes align d n hebytes hd hs hc hready
  exact formsComplete_of_loadReady (shape := .four) (hs ▸ rfl) (hs ▸ rfl) (fun _ => hs ▸ rfl) (fun h => nomatch h)
    (Nat.add_le_add_right hd 4) hebytes hc hready

theorem base_regField (n : Fin Config.numR) : (regField n).base = true := by revert n; decide

/-- Settles O38: the base register after the post-indexed load, modulo 2^32; eight bytes further the footprint check
refuses. -/
theorem writeBackWrapsAtTheTopOfMemory : Obligations.WriteBackWrapsAtTheTopOfMemory := by
  intro s n hs he
  refine ⟨fun hbase hready => ?_, fun hbase => ?_⟩
  · obtain ⟨-, ⟨t, hexec, -, hwb, -⟩, -⟩ :=
      singleSpacedA32LoadsDeinterleave s .b8 1 .omitted 0 n rfl (by decide) (by decide) hs hready
    exact ⟨t, hexec, by rw [hwb, hbase]; rfl⟩
  · refine footprintPastTheTopIsRefused (.vld2A1SinglePost .b8 .omitted 0 (regField n)) s n ?_ rfl rfl hs
      (State.conditionPassed_of_a32 hs) he (Nat.mod_one _) ?_
    · simp [Instr.wf, SizeField.defined, AlignField.twoRegs, base_regField]
    · simp [hbase, Instr.fields, pairCount]

end Sys2Proof.Machine
end

section
/-! PROOFS. The register image, byte by byte (20_memory.md section 2, rule R57): byte `i` of a lane is a byte of its
element, counted from the low end in the little-endian byte order and from the high end in the big-endian one. -/

namespace Sys2Proof.Machine

/-! ### The bytes of an element -/

/-- The offset in an element of `n` bytes of its byte `i`, the least significant being byte 0 (rule R42). -/
def byteOffset (bigEndian : Bool) (n i : Nat) : Nat := if bigEndian then n - 1 - i else i

/-- Byte `i` of the little-endian value is the byte `i` of the list. -/
theorem leValue_extractByte : ∀ {bytes : List Byte} {i : Nat} {b : Byte}, bytes.length ≤ 8 → bytes[i]? = some b →
    (leValue bytes).extractLsb' (8 * i) 8 = b
  | [], _, _, _, h => by simp at h
  | c :: bytes, i, b, hlen, h => by
    simp only [List.length_cons] at hlen
    apply BitVec.eq_of_getLsbD_eq
    intro k hk
    obtain _ | i := i
    · obtain rfl : c = b := by simpa using h
      simp [leValue, hk, show k < 64 by omega]
    · have hi : i < bytes.length := by simpa using (List.getElem?_eq_some_iff.mp h).1
      have ih := leValue_extractByte (i := i) (bytes := bytes) (by omega) h
      rw [← ih]
      simp only [leValue, BitVec.getLsbD_extractLsb', BitVec.getLsbD_or, BitVec.getLsbD_shiftLeft,
        BitVec.truncate_eq_setWidth, BitVec.getLsbD_setWidth, hk, decide_true, Bool.true_and]
      rw [BitVec.getLsbD_of_ge c _ (by omega)]
      simp [show 8 * (i + 1) + k < 64 by omega, show ¬ 8 * (i + 1) + k < 8 by omega,
        show 8 * (i + 1) + k - 8 = 8 * i + k by omega]

/-- Byte `i` of an element value is the byte at its offset. -/
theorem elementValue_extractByte {bigEndian : Bool} {bytes : List Byte} {i : Nat} {b : Byte} (hlen : bytes.length ≤ 8)
    (hi : i < bytes.length) (h : bytes[byteOffset bigEndian bytes.length i]? = some b) :
    (elementValue bigEndian bytes).extractLsb' (8 * i) 8 = b := by
  cases bigEndian with
  | false => exact leValue_extractByte hlen h
  | true =>
    refine leValue_extractByte (by simpa using hlen) ?_
    rw [List.getElem?_reverse hi]
    exact h

theorem Memory.readByte_of_readBytes (m : Memory) : ∀ {a n : Nat} {bytes : List Byte} {i : Nat},
    m.readBytes a n = some bytes → i < n → m.readByte (a + i) = bytes[i]?
  | a, n + 1, bytes, i, h, hi => by
    unfold Memory.readBytes at h
    split at h
    · cases h
    next b hb =>
      obtain ⟨rest, hrest, rfl⟩ := Option.map_eq_some_iff.mp h
      obtain _ | i := i
      · simpa using hb
      · have := Memory.readByte_of_readBytes m hrest (Nat.lt_of_succ_lt_succ hi)
        rw [List.getElem?_cons_succ, ← this, Nat.add_right_comm, Nat.add_assoc]

/-- Byte `i` of an element in memory. -/
theorem State.readByte_of_elementAt {s : State} {a n i : Nat} (h : s.readable a n) (hn : n ≤ 8) (hi : i < n) :
    s.mem.readByte (a + byteOffset s.bigEndian n i) = some ((s.elementAt a n).extractLsb' (8 * i) 8) := by
  obtain ⟨bytes, hbytes⟩ := Option.isSome_iff_exists.mp (State.readable_iff_readBytes.mp h)
  have hlen := Memory.readBytes_length _ _ _ hbytes
  have hoff : byteOffset s.bigEndian n i < n := by unfold byteOffset; split <;> omega
  have hget : bytes[byteOffset s.bigEndian n i]? = some bytes[byteOffset s.bigEndian n i] :=
    List.getElem?_eq_getElem (by omega)
  rw [Memory.readByte_of_readBytes _ hbytes hoff, hget, State.elementAt, hbytes]
  simp only
  rw [elementValue_extractByte (by omega) (by omega) (by rw [hlen]; exact hget)]

/-! ### The bytes of a register -/

/-- Byte `i` of lane `e` of a register. -/
theorem elemGet_extractByte {ebytes : Nat} (hw : LaneWidth (8 * ebytes)) (v : DWord) (e : Nat) {i : Nat}
    (hi : i < ebytes) : (elemGet v e (8 * ebytes)).extractLsb' (8 * i) 8 = v.extractLsb' (8 * (ebytes * e + i)) 8 := by
  apply BitVec.eq_of_getLsbD_eq
  intro k hk
  simp only [BitVec.getLsbD_extractLsb', elemGet_getLsbD hw, hk, decide_true, Bool.true_and,
    show 8 * i + k < 8 * ebytes by omega, Bool.and_true]
  congr 1; ring

/-- The offsets of rule R57, as a formula: byte `j` of the register is byte `j % ebytes` of element `2 * (j / ebytes)`
of the footprint. -/
theorem firstByteOffsets_eq {size : SizeField} {ebytes : Nat} (h : elementBytes size = some ebytes) {j : Nat}
    (hj : j < 8) : (firstByteOffsets size)[j]? = some (2 * ebytes * (j / ebytes) + byteOffset false ebytes (j % ebytes))
    ∧ (firstByteOffsetsBig size)[j]? = some (2 * ebytes * (j / ebytes) + byteOffset true ebytes (j % ebytes)) := by
  obtain ⟨rfl, rfl⟩ | ⟨rfl, rfl⟩ | ⟨rfl, rfl⟩ := elementBytes_some h <;> interval_cases j <;> decide

/-- A register whose lanes hold every second element from an address on holds the bytes at those offsets. -/
theorem bytesFrom_of_lanes {s : State} {size : SizeField} {ebytes base : Nat} {v : DWord}
    (h : elementBytes size = some ebytes)
    (hlanes : ∀ e < 8 / ebytes, elemGet v e (8 * ebytes) = s.elementAt (base + 2 * ebytes * e) ebytes)
    (hread : ∀ e < 8 / ebytes, s.readable (base + 2 * ebytes * e) ebytes) :
    (s.bigEndian = false → BytesFrom s v base (firstByteOffsets size))
    ∧ (s.bigEndian = true → BytesFrom s v base (firstByteOffsetsBig size)) := by
  obtain ⟨hw, hfill⟩ := elementBytes_width h
  have hpos : 0 < ebytes := Nat.pos_of_ne_zero fun h0 => by simp [h0] at hfill
  have hbyte : ∀ j < 8, s.mem.readByte (base + (2 * ebytes * (j / ebytes) + byteOffset s.bigEndian ebytes (j % ebytes)))
      = some (v.extractLsb' (8 * j) 8) := by
    intro j hj
    have he : j / ebytes < 8 / ebytes := Nat.div_lt_of_lt_mul (by rw [hfill]; exact hj)
    have hi : j % ebytes < ebytes := Nat.mod_lt j hpos
    have hle : ebytes ≤ 8 := Nat.le_of_dvd (by decide) ⟨8 / ebytes, hfill.symm⟩
    rw [← Nat.add_assoc, State.readByte_of_elementAt (hread _ he) hle hi, ← hlanes _ he, elemGet_extractByte hw _ _ hi,
      Nat.div_add_mod]
  refine ⟨fun hlittle j hj => ⟨_, (firstByteOffsets_eq h hj).1, ?_⟩,
    fun hbig j hj => ⟨_, (firstByteOffsets_eq h hj).2, ?_⟩⟩
  · rw [← hbyte j hj, hlittle]
  · rw [← hbyte j hj, hbig]

/-- Settles O35: the lanes of the two registers, element by element, and the bytes of each element. -/
theorem registerImageFollowsSizeAndByteOrder : Obligations.RegisterImageFollowsSizeAndByteOrder := by
  intro s size ebytes d n hebytes hd hs hready
  obtain ⟨⟨t, hexec, hloaded, -⟩, -, -⟩ :=
    singleSpacedA32LoadsDeinterleave s size ebytes .omitted d n hebytes (by decide) hd hs hready
  have hinside : ∀ e < 8 / ebytes, 2 * ebytes * e + 2 * ebytes ≤ 16 := by
    obtain ⟨-, hfill⟩ := elementBytes_width hebytes
    intro e he
    have := Nat.mul_le_mul_left ebytes (Nat.succ_le_of_lt he)
    have hsucc : 2 * ebytes * e + 2 * ebytes = 2 * (ebytes * (e + 1)) := by ring
    simp only [Nat.succ_eq_add_one] at this
    omega
  have hread : ∀ offset, offset + ebytes ≤ 16 → s.readable ((s.readR n).toNat + offset) ebytes :=
    fun offset hoff c h1 h2 => hready.readable c (by omega) (by omega)
  have hfirst := bytesFrom_of_lanes (v := t.readD d.val) (base := (s.readR n).toNat) hebytes
    (fun e he => by simpa using hloaded.first 0 Nat.one_pos e he)
    (fun e he => hread _ (by have := hinside e he; omega))
  have hsecond := bytesFrom_of_lanes (v := t.readD (d.val + 1)) (base := (s.readR n).toNat + ebytes) hebytes
    (fun e he => by simpa [Nat.add_right_comm] using hloaded.second 0 Nat.one_pos e he)
    (fun e he => by
      have := hinside e he
      rw [Nat.add_assoc]
      exact hread _ (by omega))
  exact ⟨t, hexec, fun hlittle => ⟨hfirst.1 hlittle, hsecond.1 hlittle⟩, fun hbig => ⟨hfirst.2 hbig, hsecond.2 hbig⟩⟩

end Sys2Proof.Machine
end
